-- ==== Sys2Proof/Word.lean ====
section
/-! DEFINITION. The word types of NKB-FCE: bytes (8-bit character codes), 32-bit words and character strings
(00_scope.md R7, R8). Every value is unsigned (R7). -/

namespace Sys2Proof

/-- An 8-bit character code or buffer byte (00_scope.md R8, 20_memory.md R54). -/
abbrev Byte := BitVec 8

/-- A 32-bit register or command word (10_state.md section 2, 30_encoding.md R65). -/
abbrev Word := BitVec 32

/-- A finite sequence of character codes (00_scope.md R8). -/
abbrev Text := List Byte

end Sys2Proof
end

