-- ==== Sys2Proof/Syntax.lean ====
section
/-! DEFINITION. The 20 commands of 30_encoding.md R68, one constructor per row of spec/opcode_table.json. An operand is the
command word's IMM8 field, a raw byte; which values are legal is WellFormed.lean's. -/

namespace Sys2Proof

/-- A command of NKB-FCE: what a legal 32-bit word written to CMD stands for (10_state.md R25, 30_encoding.md R68). -/
inductive Instr where
  /-- NOP: no operation (40_control.md R80). -/
  | nop
  /-- SRESET: soft reset (40_control.md R82). -/
  | sreset
  /-- C16INIT: initialise the CRC16 register (41_crc.md R87). -/
  | c16init
  /-- C16BYTE b: feed one byte into the CRC16 register (41_crc.md R88). -/
  | c16byte (b : Byte)
  /-- C16HEX: feed a hex window into the CRC16 register (41_crc.md R89). -/
  | c16hex
  /-- C8INIT: initialise the CRC8 register (41_crc.md R90). -/
  | c8init
  /-- C8BYTE x: feed one character code into the CRC8 register (41_crc.md R91). -/
  | c8byte (x : Byte)
  /-- C8TEXT: feed a text window into the CRC8 register (41_crc.md R92). -/
  | c8text
  /-- AENC: encode a raw bus address into a push-button address (42_address.md R100). -/
  | aenc
  /-- AKEY k: add a key nibble into the top nibble of AOUT (42_address.md R102). -/
  | akey (k : Byte)
  /-- ASWAP: swap the two bytes of a module address (42_address.md R104). -/
  | aswap
  /-- FBUILD: assemble a command frame into TXBUF (43_frame_build.md R110). -/
  | fbuild
  /-- FVALID: validate the frame in WBUF (45_parse.md R140). -/
  | fvalid
  /-- MACK: look for the ack signal of FUNC (45_parse.md R145). -/
  | mack
  /-- MANS v: look for the answer signal and extract the group state (45_parse.md R147). -/
  | mans (v : Byte)
  /-- CHUNK n: take the next fixed-length chunk (45_parse.md R150). -/
  | chunk (n : Byte)
  /-- HEXGET n: parse n hex characters of WBUF into a number (45_parse.md R153). -/
  | hexget (n : Byte)
  /-- TXSTART: start a transmission (44_link.md R125). -/
  | txstart
  /-- RXPOP: move the oldest received line into WBUF (44_link.md R131). -/
  | rxpop
  /-- RXFLUSH: discard all received data (44_link.md R133). -/
  | rxflush
  deriving DecidableEq, Repr

end Sys2Proof
end

