-- ==== Sys2Proof/WellFormed.lean ====
section
/-! DEFINITION. Which commands have a legal IMM8: the IMM8 classes of 30_encoding.md R67 and the condition column of R68. -/

namespace Sys2Proof

/-- The IMM8 classes of 30_encoding.md R67; a count's range is op-specific, and both of R68's ranges start at 1. -/
inductive ImmClass where
  /-- `z`: IMM8 must be 0. -/
  | zero
  /-- `b`: any byte, used as a data byte. -/
  | byte
  /-- `k`: a nibble, at most 0x0F. -/
  | nibble
  /-- `v`: one variant bit, 0 or 1. -/
  | variant
  /-- `n`: a count from 1 to `max`. -/
  | count (max : Nat)
  deriving DecidableEq, Repr

/-- Whether an IMM8 value meets its class (30_encoding.md R67, R68). -/
def ImmClass.admits : ImmClass → Byte → Bool
  | .zero, imm => imm == 0
  | .byte, _ => true
  | .nibble, imm => imm.toNat ≤ 0x0F
  | .variant, imm => imm.toNat ≤ 1
  | .count max, imm => 1 ≤ imm.toNat && imm.toNat ≤ max

/-- The IMM8 class of each command (30_encoding.md R68, the "IMM8 class and condition" column). -/
def Instr.immClass : Instr → ImmClass
  | .nop | .sreset | .c16init | .c16hex | .c8init | .c8text => .zero
  | .c16byte _ | .c8byte _ => .byte
  | .aenc | .aswap | .fbuild | .fvalid | .mack | .txstart | .rxpop | .rxflush => .zero
  | .akey _ => .nibble
  | .mans _ => .variant
  | .chunk _ => .count 255
  | .hexget _ => .count 8

/-- The IMM8 field of each command: its operand, or 0 where the class is `z` (30_encoding.md R65, R67). -/
def Instr.imm8 : Instr → Byte
  | .nop | .sreset | .c16init | .c16hex | .c8init | .c8text => 0
  | .aenc | .aswap | .fbuild | .fvalid | .mack | .txstart | .rxpop | .rxflush => 0
  | .c16byte b => b
  | .c8byte x => x
  | .akey k => k
  | .mans v => v
  | .chunk n => n
  | .hexget n => n

/-- A command is well-formed when its IMM8 meets its row's condition (30_encoding.md R68). -/
def Instr.wellFormed (i : Instr) : Bool := i.immClass.admits i.imm8

end Sys2Proof
end

