-- ==== Sys2Proof/Decode.lean ====
section
/-! DEFINITION. Decoding of the 32-bit command word (30_encoding.md R65-R69), total on every word and rejecting by name, and
after it the encoder, written from the same encoding table. -/

namespace Sys2Proof

/-- Why a word is illegal (30_encoding.md R69). All three raise BAD_CMD. -/
inductive DecodeError where
  /-- RSV ≠ 0. -/
  | reservedBits
  /-- OP is not in the table of R68. -/
  | unassignedOp
  /-- IMM8 breaks its row's condition. -/
  | immOutOfClass
  deriving DecidableEq, Repr

/-- `OP = w[7:0]` (30_encoding.md R66). -/
def opField (w : Word) : Byte := w.extractLsb' 0 8

/-- `IMM8 = w[15:8]` (30_encoding.md R66). -/
def immField (w : Word) : Byte := w.extractLsb' 8 8

/-- `RSV = w[31:16]` (30_encoding.md R66). -/
def rsvField (w : Word) : BitVec 16 := w.extractLsb' 16 16

/-- The command an assigned operation code stands for, with its IMM8 (30_encoding.md R68); `none` for the unassigned codes
of R69. -/
def instrOf (op imm : Byte) : Option Instr :=
  match op.toNat with
  | 0x00 => some .nop
  | 0x01 => some .sreset
  | 0x10 => some .c16init
  | 0x11 => some (.c16byte imm)
  | 0x12 => some .c16hex
  | 0x18 => some .c8init
  | 0x19 => some (.c8byte imm)
  | 0x1A => some .c8text
  | 0x20 => some .aenc
  | 0x21 => some (.akey imm)
  | 0x22 => some .aswap
  | 0x30 => some .fbuild
  | 0x31 => some .fvalid
  | 0x32 => some .mack
  | 0x33 => some (.mans imm)
  | 0x34 => some (.chunk imm)
  | 0x35 => some (.hexget imm)
  | 0x40 => some .txstart
  | 0x41 => some .rxpop
  | 0x42 => some .rxflush
  | _ => none

/-- The decoder (30_encoding.md R66, R69): every word is one command with a legal IMM8, or illegal for a named reason. -/
def decode (w : Word) : Except DecodeError Instr :=
  if rsvField w ≠ 0 then .error .reservedBits
  else
    match instrOf (opField w) (immField w) with
    | none => .error .unassignedOp
    | some i => if i.immClass.admits (immField w) then .ok i else .error .immOutOfClass

/-- The operation code of each command (30_encoding.md R68). -/
def Instr.opcode : Instr → Byte
  | .nop => 0x00
  | .sreset => 0x01
  | .c16init => 0x10
  | .c16byte _ => 0x11
  | .c16hex => 0x12
  | .c8init => 0x18
  | .c8byte _ => 0x19
  | .c8text => 0x1A
  | .aenc => 0x20
  | .akey _ => 0x21
  | .aswap => 0x22
  | .fbuild => 0x30
  | .fvalid => 0x31
  | .mack => 0x32
  | .mans _ => 0x33
  | .chunk _ => 0x34
  | .hexget _ => 0x35
  | .txstart => 0x40
  | .rxpop => 0x41
  | .rxflush => 0x42

/-- The word of a command: RSV = 0, then IMM8, then OP (30_encoding.md R65). -/
def encode (i : Instr) : Word := (0 : BitVec 16) ++ (i.imm8 ++ i.opcode : BitVec 16)

/-- The command this decoder reads from a table word of `nbits` bits whose bits are `w`, every bit above `nbits` being 0.
The command word is written to CMD as one 32-bit value (10_state.md R25), so no byte order enters. -/
def decodeTableWord (nbits w : Nat) : Option Instr := (decode (BitVec.ofNat 32 (w % 2 ^ nbits))).toOption

/-- A row of the opcode map: "a word matches a row when `(w & mask) = match` and its IMM8 meets the row's condition"
(30_encoding.md R68). -/
structure OpcodeRow where
  mnemonic : String
  pattern : Word
  mask : Word
  immClass : ImmClass
  deriving DecidableEq, Repr

/-- The opcode map of 30_encoding.md R68, row by row: mnemonic, match, mask and IMM8 condition. -/
def opcodeMap : List OpcodeRow :=
  [ ⟨"NOP", 0x00000000, 0xFFFFFFFF, .zero⟩,
    ⟨"SRESET", 0x00000001, 0xFFFFFFFF, .zero⟩,
    ⟨"C16INIT", 0x00000010, 0xFFFFFFFF, .zero⟩,
    ⟨"C16BYTE", 0x00000011, 0xFFFF00FF, .byte⟩,
    ⟨"C16HEX", 0x00000012, 0xFFFFFFFF, .zero⟩,
    ⟨"C8INIT", 0x00000018, 0xFFFFFFFF, .zero⟩,
    ⟨"C8BYTE", 0x00000019, 0xFFFF00FF, .byte⟩,
    ⟨"C8TEXT", 0x0000001A, 0xFFFFFFFF, .zero⟩ ] ++
  [ ⟨"AENC", 0x00000020, 0xFFFFFFFF, .zero⟩,
    ⟨"AKEY", 0x00000021, 0xFFFFF0FF, .nibble⟩,
    ⟨"ASWAP", 0x00000022, 0xFFFFFFFF, .zero⟩,
    ⟨"FBUILD", 0x00000030, 0xFFFFFFFF, .zero⟩,
    ⟨"FVALID", 0x00000031, 0xFFFFFFFF, .zero⟩,
    ⟨"MACK", 0x00000032, 0xFFFFFFFF, .zero⟩ ] ++
  [ ⟨"MANS", 0x00000033, 0xFFFFFEFF, .variant⟩,
    ⟨"CHUNK", 0x00000034, 0xFFFF00FF, .count 255⟩,
    ⟨"HEXGET", 0x00000035, 0xFFFFF0FF, .count 8⟩,
    ⟨"TXSTART", 0x00000040, 0xFFFFFFFF, .zero⟩,
    ⟨"RXPOP", 0x00000041, 0xFFFFFFFF, .zero⟩,
    ⟨"RXFLUSH", 0x00000042, 0xFFFFFFFF, .zero⟩ ]

/-- A word matches a row (30_encoding.md R68). -/
def OpcodeRow.accepts (r : OpcodeRow) (w : Word) : Bool :=
  (w &&& r.mask) == r.pattern && r.immClass.admits (immField w)

/-- The mnemonic of each command, as 30_encoding.md R68 and R72 spell it. -/
def Instr.mnemonic : Instr → String
  | .nop => "NOP"
  | .sreset => "SRESET"
  | .c16init => "C16INIT"
  | .c16byte _ => "C16BYTE"
  | .c16hex => "C16HEX"
  | .c8init => "C8INIT"
  | .c8byte _ => "C8BYTE"
  | .c8text => "C8TEXT"
  | .aenc => "AENC"
  | .akey _ => "AKEY"
  | .aswap => "ASWAP"
  | .fbuild => "FBUILD"
  | .fvalid => "FVALID"
  | .mack => "MACK"
  | .mans _ => "MANS"
  | .chunk _ => "CHUNK"
  | .hexget _ => "HEXGET"
  | .txstart => "TXSTART"
  | .rxpop => "RXPOP"
  | .rxflush => "RXFLUSH"

end Sys2Proof
end

