-- ==== Sys2Proof/Config.lean ====
section
/-! DEFINITION. The parameters the spec leaves OPEN (00_scope.md R6) and the free values (93_implementation_defined.md I1).
The fixed sizes of R6 stand in Machine/Ops.lean. -/

namespace Sys2Proof

/-- The OPEN parameters of 00_scope.md R6. A machine is built with one value of each; no step changes them
(10_state.md R20). What the spec asks of them is `Config.Legal` in Safety.lean. -/
structure Config where
  /-- `BASE`: the host address of register offset 0x000 (decision D3). -/
  base : Nat
  /-- `TERM`: the frame terminator character (decision D9). -/
  term : Byte
  /-- `RXQ_DEPTH`: the capacity of the received-line queue, in lines (decision D10). -/
  rxqDepth : Nat
  deriving DecidableEq, Repr

/-- The defaults the spec gives: TERM = 0x0D, RXQ_DEPTH = 4 (00_scope.md R6). DESIGN CHOICE: BASE = 0, for which the spec
gives no default (notes/assumptions/6.md). -/
def Config.default : Config := { base := 0, term := 0x0D, rxqDepth := 4 }

/-- A FREE VALUE (10_state.md R48, 93_implementation_defined.md I1): the byte that a buffer cell holds after hardware reset
number `resets` until it is written, for the cell at register-space offset `off`. It has no body: a claim that holds,
holds for every byte (70_reset_and_hazards.md R193). notes/assumptions/4.md. -/
opaque Config.unwrittenByte (resets off : Nat) : Byte

end Sys2Proof
end

