-- ==== Sys2Proof/Machine/State.lean ====
section
/-! DEFINITION. The state of NKB-FCE as plain data (10_state.md R20), the events of its three agents, the machine right after
hardware reset (10_state.md R48), and the reasons a step can stop. Register fields are held at their own widths: reserved bits
read 0 and ignore writes (10_state.md section 2), so none is stored. -/

namespace Sys2Proof.Machine

/-- What the block reports to the host as a fault. -/
inductive Fault where
  /-- A bus error (60_exceptions.md R168): raised by `busTarget` in Machine/Bus.lean for a host access that 20_memory.md R55
  refuses. Its effect is whole in the spec (the access is answered with the error, nothing else changes and the next access is
  performed), so the machine goes on: the fault stands in the access's answer, `Response.error`, and no step stops on it.
  Safe (notes/assumptions/1.md). -/
  | busError
  deriving DecidableEq, Repr

/-- Why a command would have no meaning. -/
inductive Refusal where
  /-- Raised by an arm of `exec` whose command has no meaning yet, with its mnemonic. No arm does: every command of the opcode
  table has its meaning. Safe. -/
  | notModelled (mnemonic : String)
  deriving DecidableEq, Repr

/-- The values of ERRCODE.CODE (60_exceptions.md R160). -/
inductive ErrCode where
  /-- 0: no error since ERRCODE was last cleared. -/
  | none
  /-- 1: an illegal CMD word. -/
  | badCmd
  /-- 2: STATUS.TXBUSY = 1. -/
  | busy
  /-- 3: a window, pointer or length out of range. -/
  | range
  /-- 4: an operand the command refuses. -/
  | badArg
  /-- 5: a window character is not a hex digit. -/
  | notHex
  /-- 6: RXQ holds no line. -/
  | empty
  deriving DecidableEq, Repr

/-- The values of CRES.KIND (10_state.md R41). -/
inductive ChunkKind where
  | none
  | chunk
  | terminator
  | short
  | ended
  deriving DecidableEq, Repr

/-- The fields of VRES (10_state.md R36). -/
structure VRes where
  found : Bool
  structOk : Bool
  lenOk : Bool
  crc16Ok : Bool
  crc8Ok : Bool
  valid : Bool
  foff : BitVec 16
  deriving DecidableEq, Repr

/-- The fields of MRES (10_state.md R37). -/
structure MRes where
  ackSeen : Bool
  ansSeen : Bool
  stateOk : Bool
  lastHit : Bool
  lastOff : BitVec 16
  deriving DecidableEq, Repr

/-- The fields of CRES (10_state.md R41). -/
structure CRes where
  kind : ChunkKind
  start : BitVec 16
  deriving DecidableEq, Repr

/-- VRES with every field 0 (10_state.md R48). -/
def VRes.zero : VRes := ⟨false, false, false, false, false, false, 0⟩

/-- MRES with every field 0 (10_state.md R37, R48). -/
def MRes.zero : MRes := ⟨false, false, false, false, 0⟩

/-- CRES with every field 0 (10_state.md R48). -/
def CRes.zero : CRes := ⟨.none, 0⟩

/-- The 22 host-visible registers (10_state.md section 2). -/
inductive Reg where
  | ctrl | status | cmd | errcode | crc16 | crc8 | ain | aout | func | boff | blen | wlen | txlen | vres | mres
  | stateA | stateB | cptr | cres | hval | rxcnt | txpos
  deriving DecidableEq, Repr

/-- The widths of a host access, n in 1, 2, 4 bytes (20_memory.md R55). -/
inductive Width where
  | byte | half | word
  deriving DecidableEq, Repr

/-- A host access at a host address (20_memory.md R55, R73): `MemRead` or `MemWrite` at offset `addr - BASE`. A write carries
its value in the low bytes of `v`. -/
inductive Access where
  | read (addr : Nat) (n : Width)
  | write (addr : Nat) (n : Width) (v : Word)
  deriving DecidableEq, Repr

/-- What the host bus answered to the most recent host access. -/
inductive Response where
  /-- No access yet. -/
  | none
  /-- The data of a read, zero-extended. -/
  | data (v : Word)
  /-- A write was accepted by the bus. -/
  | written
  /-- The access was refused (60_exceptions.md R168). -/
  | error (f : Fault)
  deriving DecidableEq, Repr

/-- One step of one agent, as the environment orders them (00_scope.md R11, 20_memory.md R57; notes/assumptions/2.md). -/
inductive Event where
  /-- HOST performs one access. -/
  | host (a : Access)
  /-- The receive line supplies the character `c` and RXE consumes it (44_link.md R127). -/
  | rxChar (c : Byte)
  /-- TXE takes its step, if it has one (44_link.md R121). -/
  | txe
  /-- The platform asserts the reset input (70_reset_and_hazards.md R180). -/
  | hardReset
  deriving DecidableEq, Repr

/-- The written cells of the two buffers, by register-space offset (10_state.md R45, R46; 20_memory.md R51). Canonical form,
`Memory.wf` in Machine/Ops.lean: offsets strictly rising. An unlisted offset holds no listed value, so no entry can equal it;
a cell that nothing has written reads as the free value `Config.unwrittenByte` (notes/assumptions/4.md). -/
abbrev Memory := List Host.Cell

/-- The whole machine. Every field up to `discard` is the block's (10_state.md R20); the last four are the model's own:
the environment's events, the two observations, and the index of the free bytes (notes/assumptions/2.md, 5.md, 7.md, 14.md). -/
structure State where
  /-- The parameters of 00_scope.md R6; no step changes them. -/
  cfg : Config
  /-- CTRL bits 4:0 (10_state.md R23). -/
  ctrl : BitVec 5
  /-- STATUS.TXBUSY (10_state.md R24). -/
  txbusy : Bool
  /-- STATUS.TXDONE (10_state.md R24). -/
  txdone : Bool
  /-- STATUS.OVR (10_state.md R24). -/
  ovr : Bool
  /-- STATUS.LONG (10_state.md R24). -/
  long : Bool
  /-- ERRCODE.CODE (10_state.md R26). -/
  errcode : ErrCode
  /-- CRC16.ACC16 (10_state.md R27). -/
  acc16 : BitVec 16
  /-- CRC8.ACC8 (10_state.md R28). -/
  acc8 : Byte
  /-- AIN.ADDR (10_state.md R29). -/
  ain : BitVec 24
  /-- AOUT.VALUE (10_state.md R30). -/
  aout : BitVec 24
  /-- AOUT.UNRES (10_state.md R30). -/
  unres : Bool
  /-- FUNC.CODE (10_state.md R31). -/
  func : Byte
  /-- BOFF.OFF (10_state.md R32). -/
  boff : BitVec 16
  /-- BLEN.LEN (10_state.md R33). -/
  blen : BitVec 16
  /-- WLEN.LEN (10_state.md R34). -/
  wlen : BitVec 16
  /-- TXLEN.LEN (10_state.md R35). -/
  txlen : BitVec 16
  /-- VRES (10_state.md R36). -/
  vres : VRes
  /-- MRES (10_state.md R37). -/
  mres : MRes
  /-- STATE_A (10_state.md R38). -/
  stateA : Word
  /-- STATE_B bits 15:0 (10_state.md R39). -/
  stateB : BitVec 16
  /-- CPTR.PTR (10_state.md R40). -/
  cptr : BitVec 16
  /-- CRES (10_state.md R41). -/
  cres : CRes
  /-- HVAL (10_state.md R42). -/
  hval : Word
  /-- TXPOS bits 15:0 (10_state.md R44). -/
  txpos : BitVec 16
  /-- TXBUF and WBUF (10_state.md R45, R46). -/
  mem : Memory
  /-- RXQ, oldest line first (10_state.md R47). -/
  rxq : List Text
  /-- PART (10_state.md R47). -/
  part : Text
  /-- DISCARD (10_state.md R47). -/
  discard : Bool
  /-- The model's own: how many hardware resets came before this one; indexes the free bytes. -/
  resets : Nat
  /-- The model's own: the agents' steps to come, in order. -/
  pending : List Event
  /-- The model's own: the characters emitted on the transmit line, in order (20_memory.md R50). -/
  txLine : Text
  /-- The model's own: the answer to the most recent host access. -/
  resp : Response
  deriving DecidableEq, Repr

/-- The machine right after hardware reset (10_state.md R48, 70_reset_and_hazards.md R180), with the default parameters.
Every register has the value of the table of 10_state.md section 2; the buffers hold free bytes. DESIGN CHOICE, the model's
own fields: no event pending, nothing emitted, no access answered (notes/assumptions/2.md, 5.md, 6.md, 7.md, 14.md). -/
def State.reset : State :=
  { cfg := Config.default
    ctrl := 0
    txbusy := false
    txdone := false
    ovr := false
    long := false
    errcode := .none
    acc16 := 0xFFFF
    acc8 := 0x00
    ain := 0
    aout := 0
    unres := false
    func := 0
    boff := 0
    blen := 0
    wlen := 0
    txlen := 0
    vres := VRes.zero
    mres := MRes.zero
    stateA := 0
    stateB := 0
    cptr := 0
    cres := CRes.zero
    hval := 0
    txpos := 0
    mem := []
    rxq := []
    part := []
    discard := false
    resets := 0
    pending := []
    txLine := []
    resp := .none }

end Sys2Proof.Machine
end

