-- ==== Sys2Proof/Machine/Text.lean ====
section
/-! DEFINITION. Character strings and hex text: the string operations of 00_scope.md R8 and the hex primitives of R9, with
the ASCII codes of decision D4 (93_implementation_defined.md G1). -/

namespace Sys2Proof.Machine

/-- The code of `$` (decision D4). -/
def dollar : Byte := 0x24

/-- `s[a..b)`: the characters of `s` from index `a` to `b - 1` (00_scope.md R8). -/
def slice (s : Text) (a b : Nat) : Text := (s.drop a).take (b - a)

/-- `find(s, t)`, counting indexes from `p`: the least index at which `t` stands in `s` (00_scope.md R8). -/
def findFrom (t : Text) : Text → Nat → Option Nat
  | [], p => if t.isPrefixOf [] then some p else none
  | c :: s, p => if t.isPrefixOf (c :: s) then some p else findFrom t s (p + 1)

/-- `find(s, t)`: the least index `p` such that `s[p..p+|t|) = t`, or none (00_scope.md R8). -/
def find (s t : Text) : Option Nat := findFrom t s 0

/-- `rfind(s, c)`, counting indexes from `p` (00_scope.md R8). -/
def rfindFrom (c : Byte) : Text → Nat → Option Nat
  | [], _ => none
  | x :: s, p =>
    match rfindFrom c s (p + 1) with
    | some q => some q
    | none => if x = c then some p else none

/-- `rfind(s, c)`: the greatest index holding the character `c`, or none (00_scope.md R8). -/
def rfind (s : Text) (c : Byte) : Option Nat := rfindFrom c s 0

/-- A hex digit: a code of `0`-`9`, `A`-`F` or `a`-`f` (00_scope.md R9). -/
def isHexDigit (c : Byte) : Bool :=
  (0x30 ≤ c.toNat && c.toNat ≤ 0x39) || (0x41 ≤ c.toNat && c.toNat ≤ 0x46) || (0x61 ≤ c.toNat && c.toNat ≤ 0x66)

/-- The value of a hex digit, 0 to 15 (00_scope.md R9). -/
def digitVal (c : Byte) : Nat :=
  if c.toNat ≤ 0x39 then c.toNat - 0x30 else if c.toNat ≤ 0x46 then c.toNat - 0x37 else c.toNat - 0x57

/-- `ishex(s)`: every character of `s` is a hex digit (00_scope.md R9). -/
def ishex (s : Text) : Bool := s.all isHexDigit

/-- `hexval(s)`: the number a string of hex digits denotes, most significant digit first (00_scope.md R9). It is used only
where `ishex s` holds. -/
def hexval (s : Text) : Nat := s.foldl (fun v c => v * 16 + digitVal c) 0

/-- The uppercase hex digit of a value below 16 (00_scope.md R9, decision D5). -/
def hexChar (n : Nat) : Byte := if n < 10 then BitVec.ofNat 8 (0x30 + n) else BitVec.ofNat 8 (0x37 + n)

/-- `H2(v)`: the 2-character hex string of `v` (00_scope.md R9). -/
def H2 (v : Byte) : Text := [hexChar (v.toNat / 16), hexChar (v.toNat % 16)]

/-- `H4(v)`: the 4-character hex string of `v` (00_scope.md R9). -/
def H4 (v : BitVec 16) : Text := H2 (v.extractLsb' 8 8) ++ H2 (v.extractLsb' 0 8)

/-- `H6(v)`: the 6-character hex string of `v` (00_scope.md R9): the document's form of an encoded address (42_address.md R100). -/
def H6 (v : BitVec 24) : Text := H2 (v.extractLsb' 16 8) ++ H4 (v.extractLsb' 0 16)

/-- `bytes_of(s)`: the bytes an even-length hex string denotes, two characters per byte, in order (00_scope.md R9). -/
def bytesOf : Text → List Byte
  | a :: b :: s => BitVec.ofNat 8 (hexval [a, b]) :: bytesOf s
  | _ => []

/-- A character is `F` or `f` (45_parse.md R150). -/
def isF (c : Byte) : Bool := c == 0x46 || c == 0x66

end Sys2Proof.Machine
end

