-- ==== Sys2Proof/Machine/Ops.lean ====
section
/-! DEFINITION. The named operations over memory and registers: the buffer cells (10_state.md R45, R46), raising an error
(60_exceptions.md R165), and the two resets (10_state.md R48, 40_control.md R82). -/

namespace Sys2Proof.Machine

/-! ## Fixed sizes (00_scope.md R6) -/

/-- `TXBUF_SIZE`. -/
def txbufSize : Nat := 256

/-- `WBUF_SIZE`. -/
def wbufSize : Nat := 512

/-- `MAX_LINE` = `WBUF_SIZE`. -/
def maxLine : Nat := wbufSize

/-- The offset of TXBUF byte 0 (20_memory.md R51). -/
def txbufBase : Nat := 0x100

/-- The offset of WBUF byte 0 (20_memory.md R51). -/
def wbufBase : Nat := 0x200

/-- The offset just past the register space (20_memory.md R50). -/
def spaceEnd : Nat := 0x400

/-! ## Memory -/

/-- The canonical form of the written cells: offsets strictly rising. -/
def Memory.wf : Memory → Bool
  | [] => true
  | [_] => true
  | (a, _) :: (b, y) :: m => decide (a < b) && Memory.wf ((b, y) :: m)

/-- The listed byte of an offset, if the cell has been written since hardware reset. -/
def Memory.lookup : Memory → Nat → Option Byte
  | [], _ => none
  | (a, b) :: m, x => if a = x then some b else Memory.lookup m x

/-- Writes one cell, keeping the canonical form. -/
def Memory.insert : Memory → Nat → Byte → Memory
  | [], x, v => [(x, v)]
  | (a, b) :: m, x, v =>
    if x < a then (x, v) :: (a, b) :: m
    else if x = a then (x, v) :: m
    else (a, b) :: Memory.insert m x v

/-- Writes the characters of a text to consecutive offsets from `x`. -/
def Memory.insertAll (m : Memory) (x : Nat) : Text → Memory
  | [] => m
  | c :: t => Memory.insertAll (Memory.insert m x c) (x + 1) t

/-- The byte at a register-space offset: the written byte, or the free value the cell drew at the last hardware reset
(10_state.md R48). Only offsets 0x100 to 0x3FF hold cells (20_memory.md R51). -/
def State.cell (s : State) (off : Nat) : Byte := (Memory.lookup s.mem off).getD (Config.unwrittenByte s.resets off)

/-- TXBUF byte `i` (10_state.md R45). -/
def State.txbuf (s : State) (i : Nat) : Byte := s.cell (txbufBase + i)

/-- WBUF byte `i` (10_state.md R46). -/
def State.wbuf (s : State) (i : Nat) : Byte := s.cell (wbufBase + i)

/-- The `n` characters of WBUF from index `a`: `WBUF[a .. a+n)`. -/
def State.wbufText (s : State) (a n : Nat) : Text := (List.range n).map fun i => s.wbuf (a + i)

/-- The `n` characters of TXBUF from index 0: `TXBUF[0 .. n)`. -/
def State.txbufText (s : State) (n : Nat) : Text := (List.range n).map fun i => s.txbuf i

/-- Writes one buffer cell: `TXBUF[i] <- b` and `WBUF[i] <- b` (00_scope.md R10). -/
def State.setCell (s : State) (off : Nat) (b : Byte) : State := { s with mem := Memory.insert s.mem off b }

/-- Writes a text to consecutive buffer cells. -/
def State.setCells (s : State) (off : Nat) (t : Text) : State := { s with mem := Memory.insertAll s.mem off t }

/-! ## Errors: the block's one exception mechanism (60_exceptions.md R165, R172) -/

/-- `raise Err(code)` (60_exceptions.md R165): ERRCODE.CODE takes the code, overwriting any earlier one, and nothing else
changes. There is no saved state and no return (R172, R173). -/
def raiseErr (e : ErrCode) (s : State) : State := { s with errcode := e }

/-- The end of a command or register write that has checked its errors before it writes anything (60_exceptions.md R165): its
new state, or the error raised in the old one. -/
def settled (s : State) : Except ErrCode State → State
  | .ok t => t
  | .error e => raiseErr e s

/-- A command's outcome. An error ends the command, not the machine (60_exceptions.md R165). -/
def attempt (s : State) (r : Except ErrCode State) : Host.Outcome State Fault Refusal := .next (settled s r)

/-- The code of an error as ERRCODE shows it (60_exceptions.md R160). -/
def ErrCode.code : ErrCode → Byte
  | .none => 0
  | .badCmd => 1
  | .busy => 2
  | .range => 3
  | .badArg => 4
  | .notHex => 5
  | .empty => 6

/-- The value of CRES.KIND (10_state.md R41). -/
def ChunkKind.code : ChunkKind → BitVec 3
  | .none => 0
  | .chunk => 1
  | .terminator => 2
  | .short => 3
  | .ended => 4

/-! ## Resets -/

/-- SRESET's effect (40_control.md R82): every register at its reset value, RXQ, PART and DISCARD empty, the transmission
stopped; TXBUF and WBUF keep their contents, the emitted characters stay emitted. -/
def softReset (s : State) : State :=
  { State.reset with
    cfg := s.cfg, mem := s.mem, resets := s.resets, pending := s.pending, txLine := s.txLine, resp := s.resp }

/-- Hardware reset (10_state.md R48, 70_reset_and_hazards.md R180): as SRESET, and every buffer cell draws a fresh
unspecified byte. -/
def hardReset (s : State) : State := { softReset s with mem := [], resets := s.resets + 1 }

end Sys2Proof.Machine
end

