-- ==== Sys2Proof/Machine/Operands.lean ====
section
/-! DEFINITION. The operand forms of the commands: the IMM8 classes (30_encoding.md R67), the WBUF windows (10_state.md R32-R34,
decision D15), the received text, and the fields of AIN (10_state.md R29). -/

namespace Sys2Proof.Machine

/-- The nibble operand `k = IMM8[3:0]` of AKEY (42_address.md R102). -/
def nibbleOf (imm : Byte) : BitVec 4 := imm.extractLsb' 0 4

/-- The variant operand `v = IMM8[0]` of MANS (45_parse.md R147): true for 1. -/
def variantOf (imm : Byte) : Bool := imm.getLsbD 0

/-- The count operand `n = IMM8` of CHUNK and HEXGET (45_parse.md R150, R153). -/
def countOf (imm : Byte) : Nat := imm.toNat

/-- The received text `WBUF[0 .. WLEN)` (45_parse.md). -/
def State.line (s : State) : Text := s.wbufText 0 s.wlen.toNat

/-- A window of `n` characters from BOFF lies in `[0, WLEN)`: `BOFF + n ≤ WLEN`, the sum taken without wrap-around
(41_crc.md R89, decision D15). -/
def State.windowIn (s : State) (n : Nat) : Bool := s.boff.toNat + n ≤ s.wlen.toNat

/-- The `n` characters from BOFF, `WBUF[BOFF .. BOFF+n)`. -/
def State.windowText (s : State) (n : Nat) : Text := s.wbufText s.boff.toNat n

/-- The window `WBUF[BOFF .. BOFF+BLEN)` of C16HEX, C8TEXT and FBUILD (10_state.md R33). -/
def State.window (s : State) : Text := s.windowText s.blen.toNat

/-- `AIN.ADDR[7:0]`. -/
def State.addrLow (s : State) : Byte := s.ain.extractLsb' 0 8

/-- `AIN.ADDR[15:8]`. -/
def State.addrHigh (s : State) : Byte := s.ain.extractLsb' 8 8

/-- `AIN.ADDR[23:16]`. -/
def State.addrTop (s : State) : Byte := s.ain.extractLsb' 16 8

/-- The module address in wire order, low byte first: `H2(AIN.ADDR[7:0]) ++ H2(AIN.ADDR[15:8])` (20_memory.md R53). -/
def State.wireAddr (s : State) : Text := H2 s.addrLow ++ H2 s.addrHigh

/-- `CTRL.RXEN` (10_state.md R23). -/
def State.rxen (s : State) : Bool := s.ctrl.getLsbD 0

/-- `CTRL.IE_RXNE` (10_state.md R23). -/
def State.ieRxne (s : State) : Bool := s.ctrl.getLsbD 1

/-- `CTRL.IE_TXDONE` (10_state.md R23). -/
def State.ieTxdone (s : State) : Bool := s.ctrl.getLsbD 2

/-- `CTRL.IE_ERR` (10_state.md R23). -/
def State.ieErr (s : State) : Bool := s.ctrl.getLsbD 3

/-- `CTRL.IE_RXERR` (10_state.md R23). -/
def State.ieRxerr (s : State) : Bool := s.ctrl.getLsbD 4

end Sys2Proof.Machine
end

