-- ==== Sys2Proof/Machine/Flags.lean ====
section
/-! DEFINITION. The status flags that are functions of other state (10_state.md R24, R49; 60_exceptions.md R170) and the words
in which the host reads flags and fields. In each word the bits stand with the most significant first. -/

namespace Sys2Proof.Machine

/-- STATUS.RXNE: RXQ holds at least one line (10_state.md R24). -/
def State.rxne (s : State) : Bool := !s.rxq.isEmpty

/-- STATUS.QFULL: RXQ holds `RXQ_DEPTH` lines (10_state.md R24). -/
def State.qfull (s : State) : Bool := s.rxq.length == s.cfg.rxqDepth

/-- STATUS.ERR: ERRCODE ≠ 0 (10_state.md R24). -/
def State.err (s : State) : Bool := s.errcode != .none

/-- The interrupt output IRQ: the OR of the four enabled sources, with no latch (60_exceptions.md R170). -/
def State.irq (s : State) : Bool :=
  (s.rxne && s.ieRxne) || (s.txdone && s.ieTxdone) || (s.err && s.ieErr) || ((s.ovr || s.long) && s.ieRxerr)

/-- One flag as a bit. -/
def flag (b : Bool) : BitVec 1 := BitVec.ofBool b

/-- STATUS (10_state.md R24): IRQ 7, QFULL 6, LONG 5, OVR 4, ERR 3, TXDONE 2, TXBUSY 1, RXNE 0. -/
def State.statusWord (s : State) : Word :=
  (flag s.irq ++ flag s.qfull ++ flag s.long ++ flag s.ovr ++ flag s.err ++ flag s.txdone ++ flag s.txbusy
    ++ flag s.rxne).setWidth 32

/-- AOUT (10_state.md R30): UNRES 31, VALUE 23:0. -/
def State.aoutWord (s : State) : Word := (flag s.unres ++ (0 : BitVec 7) ++ s.aout).setWidth 32

/-- VRES (10_state.md R36): FOFF 31:16, VALID 5, CRC8_OK 4, CRC16_OK 3, LEN_OK 2, STRUCT_OK 1, FOUND 0. -/
def VRes.word (v : VRes) : Word :=
  (v.foff ++ (0 : BitVec 10) ++ flag v.valid ++ flag v.crc8Ok ++ flag v.crc16Ok ++ flag v.lenOk ++ flag v.structOk
    ++ flag v.found).setWidth 32

/-- MRES (10_state.md R37): LAST_OFF 31:16, LAST_HIT 3, STATE_OK 2, ANS_SEEN 1, ACK_SEEN 0. -/
def MRes.word (m : MRes) : Word :=
  (m.lastOff ++ (0 : BitVec 12) ++ flag m.lastHit ++ flag m.stateOk ++ flag m.ansSeen ++ flag m.ackSeen).setWidth 32

/-- CRES (10_state.md R41): START 31:16, KIND 2:0. -/
def CRes.word (c : CRes) : Word := (c.start ++ (0 : BitVec 13) ++ c.kind.code).setWidth 32

/-- RXCNT (10_state.md R43): PLEN 31:16, DISCARD 8, COUNT 7:0. -/
def State.rxcntWord (s : State) : Word :=
  (BitVec.ofNat 16 s.part.length ++ (0 : BitVec 7) ++ flag s.discard ++ BitVec.ofNat 8 s.rxq.length).setWidth 32

end Sys2Proof.Machine
end

