-- ==== Sys2Proof/Machine/Bus.lean ====
section
/-! DEFINITION. The host bus (20_memory.md R51, R55, R56): which accesses succeed, what each register reads as, and what a
write of each does (10_state.md R23-R46). A write to CMD hands its word on to be run. -/

namespace Sys2Proof.Machine

/-! ## The map (20_memory.md R51) -/

/-- The registers in the order of their offsets: register `k` stands at offset `4 * k` (10_state.md section 2). -/
def regMap : List Reg :=
  [.ctrl, .status, .cmd, .errcode, .crc16, .crc8, .ain, .aout, .func, .boff, .blen] ++
  [.wlen, .txlen, .vres, .mres, .stateA, .stateB, .cptr, .cres, .hval, .rxcnt, .txpos]

/-- The offset of a register (10_state.md section 2). -/
def Reg.offset : Reg → Nat
  | .ctrl => 0x000
  | .status => 0x004
  | .cmd => 0x008
  | .errcode => 0x00C
  | .crc16 => 0x010
  | .crc8 => 0x014
  | .ain => 0x018
  | .aout => 0x01C
  | .func => 0x020
  | .boff => 0x024
  | .blen => 0x028
  | .wlen => 0x02C
  | .txlen => 0x030
  | .vres => 0x034
  | .mres => 0x038
  | .stateA => 0x03C
  | .stateB => 0x040
  | .cptr => 0x044
  | .cres => 0x048
  | .hval => 0x04C
  | .rxcnt => 0x050
  | .txpos => 0x054

/-- What an access that succeeds reaches. -/
inductive Target where
  | reg (r : Reg)
  | txbuf (i : Nat)
  | wbuf (i : Nat)
  deriving DecidableEq, Repr

/-- What an access of `n` bytes at offset `off` reaches, or the bus error of 20_memory.md R55. -/
def offsetTarget (off : Nat) (n : Width) : Except Fault Target :=
  if off ≤ 0x057 then
    if n ≠ .word ∨ off % 4 ≠ 0 then .error .busError
    else
      match regMap[off / 4]? with
      | some r => .ok (.reg r)
      | none => .error .busError
  else if txbufBase ≤ off ∧ off < txbufBase + txbufSize then
    if n ≠ .byte then .error .busError else .ok (.txbuf (off - txbufBase))
  else if wbufBase ≤ off ∧ off < wbufBase + wbufSize then
    if n ≠ .byte then .error .busError else .ok (.wbuf (off - wbufBase))
  else .error .busError

/-- What an access at a host address reaches. An address below BASE lies outside the register space, so it is a bus error
(60_exceptions.md R168; DEDUCED, notes/assumptions/8.md). -/
def busTarget (cfg : Config) (addr : Nat) (n : Width) : Except Fault Target :=
  if addr < cfg.base then .error .busError else offsetTarget (addr - cfg.base) n

/-! ## Reads (20_memory.md R56: no read has a side effect) -/

/-- What a 32-bit read of a register gives (10_state.md R23-R44); reserved bits read 0. -/
def State.readReg (s : State) : Reg → Word
  | .ctrl => s.ctrl.setWidth 32
  | .status => s.statusWord
  | .cmd => 0
  | .errcode => s.errcode.code.setWidth 32
  | .crc16 => s.acc16.setWidth 32
  | .crc8 => s.acc8.setWidth 32
  | .ain => s.ain.setWidth 32
  | .aout => s.aoutWord
  | .func => s.func.setWidth 32
  | .boff => s.boff.setWidth 32
  | .blen => s.blen.setWidth 32
  | .wlen => s.wlen.setWidth 32
  | .txlen => s.txlen.setWidth 32
  | .vres => s.vres.word
  | .mres => s.mres.word
  | .stateA => s.stateA
  | .stateB => s.stateB.setWidth 32
  | .cptr => s.cptr.setWidth 32
  | .cres => s.cres.word
  | .hval => s.hval
  | .rxcnt => s.rxcntWord
  | .txpos => s.txpos.setWidth 32

/-- What a read of a target gives; a buffer byte is zero-extended (notes/assumptions/7.md). -/
def State.readTarget (s : State) : Target → Word
  | .reg r => s.readReg r
  | .txbuf i => (s.txbuf i).setWidth 32
  | .wbuf i => (s.wbuf i).setWidth 32

/-! ## Writes -/

/-- A write of CTRL (10_state.md R23): clearing RXEN also empties PART and clears DISCARD. -/
def writeCtrl (v : Word) (s : State) : State :=
  if s.rxen && !v.getLsbD 0 then { s with ctrl := v.extractLsb' 0 5, part := [], discard := false }
  else { s with ctrl := v.extractLsb' 0 5 }

/-- A write of STATUS (10_state.md R24): 1 clears TXDONE, OVR, LONG; nothing else changes. -/
def writeStatus (v : Word) (s : State) : State :=
  { s with
    txdone := s.txdone && !v.getLsbD 2
    ovr := s.ovr && !v.getLsbD 4
    long := s.long && !v.getLsbD 5 }

/-- A write of WLEN (10_state.md R34). -/
def writeWlen (v : Word) (s : State) : Except ErrCode State :=
  if (v.extractLsb' 0 16).toNat > wbufSize then .error .range else .ok { s with wlen := v.extractLsb' 0 16 }

/-- A write of TXLEN (10_state.md R35, 44_link.md R126). -/
def writeTxlen (v : Word) (s : State) : Except ErrCode State :=
  if s.txbusy then .error .busy
  else if (v.extractLsb' 0 16).toNat > txbufSize then .error .range
  else .ok { s with txlen := v.extractLsb' 0 16 }

/-- A 32-bit write of a register other than CMD (10_state.md R23-R44). Reserved bits are ignored; a write to a read-only
register is ignored without an error (20_memory.md R56). A write of CMD is `hostWrite`'s. -/
def writeReg (r : Reg) (v : Word) (s : State) : Except ErrCode State :=
  match r with
  | .ctrl => .ok (writeCtrl v s)
  | .status => .ok (writeStatus v s)
  | .cmd => .ok s
  | .errcode => .ok { s with errcode := .none }
  | .crc16 => .ok { s with acc16 := v.extractLsb' 0 16 }
  | .crc8 => .ok { s with acc8 := v.extractLsb' 0 8 }
  | .ain => .ok { s with ain := v.extractLsb' 0 24 }
  | .aout => .ok s
  | .func => .ok { s with func := v.extractLsb' 0 8 }
  | .boff => .ok { s with boff := v.extractLsb' 0 16 }
  | .blen => .ok { s with blen := v.extractLsb' 0 16 }
  | .wlen => writeWlen v s
  | .txlen => writeTxlen v s
  | .vres => .ok s
  | .mres => .ok { s with mres := MRes.zero }
  | .stateA => .ok s
  | .stateB => .ok s
  | .cptr => .ok { s with cptr := v.extractLsb' 0 16 }
  | .cres => .ok s
  | .hval => .ok s
  | .rxcnt => .ok s
  | .txpos => .ok s

/-- A host byte write to TXBUF (10_state.md R45): refused with BUSY while a transmission is in progress (44_link.md R126). -/
def writeTxbuf (i : Nat) (b : Byte) (s : State) : Except ErrCode State :=
  if s.txbusy then .error .busy else .ok (s.setCell (txbufBase + i) b)

/-- A host byte write to WBUF (10_state.md R46). -/
def writeWbuf (i : Nat) (b : Byte) (s : State) : State := s.setCell (wbufBase + i) b

/-! ## Accesses -/

/-- What an agent's step comes to: a finished step, or a command word written to CMD, to be run in the given state within
the same step (20_memory.md R52). -/
inductive Action where
  | done (s : State)
  | run (w : Word) (s : State)
  deriving DecidableEq, Repr

/-- Records the answer to a host access. -/
def respond (r : Response) (s : State) : State := { s with resp := r }

/-- A write that succeeds on the bus (20_memory.md R56). -/
def hostWrite (t : Target) (v : Word) (s : State) : Action :=
  match t with
  | .reg .cmd => .run v s
  | .reg r => .done (settled s (writeReg r v s))
  | .txbuf i => .done (settled s (writeTxbuf i (v.extractLsb' 0 8) s))
  | .wbuf i => .done (writeWbuf i (v.extractLsb' 0 8) s)

/-- One host access (20_memory.md R52, R55): refused with a bus error and no other effect (60_exceptions.md R168), or
performed and answered. -/
def hostAccess (a : Access) (s : State) : Action :=
  match a with
  | .read addr n =>
    match busTarget s.cfg addr n with
    | .error f => .done (respond (.error f) s)
    | .ok t => .done (respond (.data (s.readTarget t)) s)
  | .write addr n v =>
    match busTarget s.cfg addr n with
    | .error f => .done (respond (.error f) s)
    | .ok t => hostWrite t v (respond .written s)

end Sys2Proof.Machine
end

