-- ==== Sys2Proof/Machine/Link.lean ====
section
/-! DEFINITION. The line-delimited link (44_link.md): the steps of the transmit engine TXE and the receive engine RXE, and the
commands TXSTART, RXPOP and RXFLUSH. -/

namespace Sys2Proof.Machine

/-- `emit(c)` (00_scope.md R10, 44_link.md R121): appends the character to the transmit line. -/
def emit (c : Byte) (s : State) : State := { s with txLine := s.txLine ++ [c] }

/-- TXE's step (44_link.md R121): the next character of TXBUF, or the terminator that ends the transmission. TXE has a step
exactly when TXBUSY = 1; otherwise nothing changes (notes/assumptions/3.md). -/
def txeStep (s : State) : State :=
  if s.txbusy then
    if s.txpos.toNat < s.txlen.toNat then { emit (s.txbuf s.txpos.toNat) s with txpos := s.txpos + 1 }
    else { emit s.cfg.term s with txbusy := false, txdone := true }
  else s

/-- A terminator arrives while RXEN = 1 (44_link.md R127): a dropped long line ends, an empty line is skipped, a line that
finds RXQ full is dropped and sets OVR, any other line joins RXQ; PART becomes empty. -/
def rxeTerminator (s : State) : State :=
  if s.discard then { s with discard := false, part := [] }
  else if s.part.length = 0 then { s with part := [] }
  else if s.rxq.length = s.cfg.rxqDepth then { s with ovr := true, part := [] }
  else { s with rxq := s.rxq ++ [s.part], part := [] }

/-- A character other than the terminator arrives while RXEN = 1 (44_link.md R127). -/
def rxeCharacter (c : Byte) (s : State) : State :=
  if s.discard then s
  else if s.part.length < maxLine then { s with part := s.part ++ [c] }
  else { s with long := true, discard := true, part := [] }

/-- RXE's step on the character `c` (44_link.md R127, R129): with RXEN = 0 the character is discarded. -/
def rxeStep (c : Byte) (s : State) : State :=
  if !s.rxen then s else if c = s.cfg.term then rxeTerminator s else rxeCharacter c s

/-- TXSTART (44_link.md R125). TXDONE is not cleared. -/
def execTxstart (s : State) : Host.Outcome State Fault Refusal :=
  attempt s <| if s.txbusy then .error .busy else .ok { s with txpos := 0, txbusy := true }

/-- RXPOP (44_link.md R131): EMPTY, or the oldest line goes to WBUF and its length to WLEN. -/
def execRxpop (s : State) : Host.Outcome State Fault Refusal :=
  attempt s <|
    match s.rxq with
    | [] => .error .empty
    | line :: rest => .ok { s.setCells wbufBase line with rxq := rest, wlen := BitVec.ofNat 16 line.length }

/-- RXFLUSH (44_link.md R133). -/
def execRxflush (s : State) : Host.Outcome State Fault Refusal :=
  attempt s (.ok { s with rxq := [], part := [], discard := false })

end Sys2Proof.Machine
end

