-- ==== Sys2Proof/Machine/Agents.lean ====
section
/-! DEFINITION. The agents and the order of their steps (00_scope.md R11, 20_memory.md R57). -/

namespace Sys2Proof.Machine

/-- One event: the step of one agent, or the reset input. -/
def serve (e : Event) (s : State) : Action :=
  match e with
  | .host a => hostAccess a s
  | .rxChar c => .done (rxeStep c s)
  | .txe => .done (txeStep s)
  | .hardReset => .done (hardReset s)

/-- The next agent step: the first pending event, which is thereby taken. With no event pending, TXE takes its step if it has
one: an enabled TXE step is taken eventually (44_link.md R122; notes/assumptions/3.md). -/
def nextAction (s : State) : Action :=
  match s.pending with
  | [] => .done (txeStep s)
  | e :: rest => serve e { s with pending := rest }

/-- What an illegal CMD word does (30_encoding.md R69): BAD_CMD, and no command runs. -/
def illegalWord (s : State) : State := raiseErr .badCmd s

/-- The host's write of the command word `w` (10_state.md R25). -/
def cmdWrite (cfg : Config) (w : Word) : Event := .host (.write (cfg.base + Reg.cmd.offset) .word w)

end Sys2Proof.Machine
end

