-- ==== Sys2Proof/Machine/Address.lean ====
section
/-! DEFINITION. The address bit-reversal unit (42_address.md): AENC, AKEY and ASWAP. -/

namespace Sys2Proof.Machine

/-- `rev21(x)`: bit `20 - i` of the result is bit `i` of `x` (42_address.md R101). -/
def rev21 (x : BitVec 21) : BitVec 21 := x.reverse

/-- The document's `encode_address` (42_address.md R100): reverse bits 0 to 20, shift left by 1, and add bits 21 to 23 as a
number. The sum never wraps (R106). -/
def encodeAddress (a : BitVec 24) : BitVec 24 :=
  ((rev21 (a.extractLsb' 0 21)).setWidth 24 <<< 1) + (a.extractLsb' 21 3).setWidth 24

/-- AENC (42_address.md R100). -/
def execAenc (s : State) : Host.Outcome State Fault Refusal :=
  attempt s (.ok { s with aout := encodeAddress s.ain, unres := false })

/-- The 5-bit sum of AKEY: AOUT's top nibble plus the key nibble (42_address.md R102). -/
def keySum (a : BitVec 24) (k : BitVec 4) : BitVec 5 := (a.extractLsb' 20 4).setWidth 5 + k.setWidth 5

/-- AKEY k (42_address.md R102): a sum above 15 is reported as UNRES and never wrapped. -/
def execAkey (imm : Byte) (s : State) : Host.Outcome State Fault Refusal :=
  attempt s <| .ok <|
    if (keySum s.aout (nibbleOf imm)).toNat ≤ 15 then
      { s with
        aout := ((keySum s.aout (nibbleOf imm)).extractLsb' 0 4 ++ s.aout.extractLsb' 0 20 : BitVec 24)
        unres := false }
    else { s with unres := true }

/-- ASWAP (42_address.md R104): BAD_ARG for an address of more than 16 bits, else the two bytes swapped. -/
def execAswap (s : State) : Host.Outcome State Fault Refusal :=
  attempt s <|
    if s.addrTop ≠ 0 then .error .badArg
    else .ok { s with aout := ((0 : BitVec 8) ++ s.addrLow ++ s.addrHigh : BitVec 24), unres := false }

end Sys2Proof.Machine
end

