-- ==== Sys2Proof/Machine/Control.lean ====
section
/-! DEFINITION. The control commands NOP and SRESET (40_control.md). -/

namespace Sys2Proof.Machine

/-- NOP (40_control.md R80): `skip`. -/
def execNop (s : State) : Host.Outcome State Fault Refusal := attempt s (.ok s)

/-- SRESET (40_control.md R82). -/
def execSreset (s : State) : Host.Outcome State Fault Refusal := attempt s (.ok (softReset s))

end Sys2Proof.Machine
end

