-- ==== Sys2Proof/Machine/Crc.lean ====
section
/-! DEFINITION. The CRC16/CRC8 generator (41_crc.md): the two algorithms of R85 and R86 and the six commands R87 to R92. -/

namespace Sys2Proof.Machine

/-! ## The algorithms -/

/-- `CRC16_POLY` (00_scope.md R6). -/
def crc16Poly : BitVec 16 := 0x1021

/-- `CRC16_INIT` (00_scope.md R6). -/
def crc16Init : BitVec 16 := 0xFFFF

/-- `CRC8_POLY` (00_scope.md R6). -/
def crc8Poly : BitVec 8 := 0x99

/-- `CRC8_INIT` (00_scope.md R6). -/
def crc8Init : BitVec 8 := 0x00

/-- One polynomial-division step of CRC16 (41_crc.md R85): shift left, and XOR the polynomial if the bit shifted out was 1. -/
def shift16 (c : BitVec 16) : BitVec 16 := if c.getLsbD 15 then (c <<< 1) ^^^ crc16Poly else c <<< 1

/-- One polynomial-division step of CRC8, MSB first (41_crc.md R86, decision D17). -/
def shift8 (c : BitVec 8) : BitVec 8 := if c.getLsbD 7 then (c <<< 1) ^^^ crc8Poly else c <<< 1

/-- Does a step `n` times. -/
def times {α : Type} (step : α → α) : Nat → α → α
  | 0, c => c
  | n + 1, c => times step n (step c)

/-- `step16(c, b)` (41_crc.md R85): XOR the byte into the high byte, then 8 division steps. -/
def step16 (c : BitVec 16) (b : Byte) : BitVec 16 := times shift16 8 (c ^^^ (b ++ (0 : BitVec 8) : BitVec 16))

/-- `step8(c, x)` (41_crc.md R86): XOR the character code in, then 8 division steps. -/
def step8 (c : BitVec 8) (x : Byte) : BitVec 8 := times shift8 8 (c ^^^ x)

/-- `crc16(bs)` (41_crc.md R85). -/
def crc16 (bs : List Byte) : BitVec 16 := bs.foldl step16 crc16Init

/-- `crc16_hex(s)` for even-length hex text (41_crc.md R85). -/
def crc16Hex (s : Text) : BitVec 16 := crc16 (bytesOf s)

/-- `crc8(s)` over the character codes (41_crc.md R86). -/
def crc8 (s : Text) : BitVec 8 := s.foldl step8 crc8Init

/-! ## CRC16 commands -/

/-- C16INIT (41_crc.md R87). -/
def execC16init (s : State) : Host.Outcome State Fault Refusal := attempt s (.ok { s with acc16 := crc16Init })

/-- C16BYTE b (41_crc.md R88). -/
def execC16byte (b : Byte) (s : State) : Host.Outcome State Fault Refusal :=
  attempt s (.ok { s with acc16 := step16 s.acc16 b })

/-- C16HEX (41_crc.md R89): RANGE, BAD_ARG, NOT_HEX, then the window's bytes are fed in order. -/
def execC16hex (s : State) : Host.Outcome State Fault Refusal :=
  attempt s <|
    if !s.windowIn s.blen.toNat then .error .range
    else if s.blen.toNat % 2 = 1 then .error .badArg
    else if !ishex s.window then .error .notHex
    else .ok { s with acc16 := (bytesOf s.window).foldl step16 s.acc16 }

/-! ## CRC8 commands -/

/-- C8INIT (41_crc.md R90). -/
def execC8init (s : State) : Host.Outcome State Fault Refusal := attempt s (.ok { s with acc8 := crc8Init })

/-- C8BYTE x (41_crc.md R91). -/
def execC8byte (x : Byte) (s : State) : Host.Outcome State Fault Refusal :=
  attempt s (.ok { s with acc8 := step8 s.acc8 x })

/-- C8TEXT (41_crc.md R92): RANGE, then the window's character codes are fed in order. -/
def execC8text (s : State) : Host.Outcome State Fault Refusal :=
  attempt s <|
    if !s.windowIn s.blen.toNat then .error .range
    else .ok { s with acc8 := s.window.foldl step8 s.acc8 }

end Sys2Proof.Machine
end

