-- ==== Sys2Proof/Machine/Frame.lean ====
section
/-! DEFINITION. The frame assembler (43_frame_build.md): the wire frame of R110 and R111, and FBUILD. -/

namespace Sys2Proof.Machine

/-- `LEN_BIAS` (00_scope.md R6, 43_frame_build.md R111). -/
def lenBias : Nat := 10

/-- `MAX_ARGS` (00_scope.md R6, 43_frame_build.md R112). -/
def maxArgs : Nat := 238

/-- The frame's data: function code, module address low byte first, args (43_frame_build.md R110). -/
def frameData (code low high : Byte) (args : Text) : Text := H2 code ++ H2 low ++ H2 high ++ args

/-- The length field and the data: what CRC16 covers (43_frame_build.md R110). -/
def frameBody (data : Text) : Text := H2 (BitVec.ofNat 8 (data.length + lenBias)) ++ data

/-- `$`, length field, data and CRC16: what CRC8 covers (43_frame_build.md R110, 90_conflicts.md C8). -/
def frameHead (data : Text) : Text := dollar :: frameBody data ++ H4 (crc16Hex (frameBody data))

/-- The wire frame of the given data (43_frame_build.md R110). -/
def frameOf (data : Text) : Text := frameHead data ++ H2 (crc8 (frameHead data))

/-- The frame FBUILD assembles from FUNC, AIN and the window (43_frame_build.md R110). -/
def State.builtFrame (s : State) : Text := frameOf (frameData s.func s.addrLow s.addrHigh s.window)

/-- FBUILD (43_frame_build.md R110): BUSY, RANGE, BAD_ARG (address, odd BLEN, BLEN > 238), NOT_HEX, then the frame goes to
TXBUF and its length to TXLEN. -/
def execFbuild (s : State) : Host.Outcome State Fault Refusal :=
  attempt s <|
    if s.txbusy then .error .busy
    else if !s.windowIn s.blen.toNat then .error .range
    else if s.addrTop ≠ 0 then .error .badArg
    else if s.blen.toNat % 2 = 1 then .error .badArg
    else if s.blen.toNat > maxArgs then .error .badArg
    else if !ishex s.window then .error .notHex
    else .ok { s.setCells txbufBase s.builtFrame with txlen := BitVec.ofNat 16 s.builtFrame.length }

end Sys2Proof.Machine
end

