-- ==== Sys2Proof/Machine/Parse.lean ====
section
/-! DEFINITION. The frame parser and byte-alignment engine (45_parse.md): FVALID, MACK, MANS, CHUNK and HEXGET. -/

namespace Sys2Proof.Machine

/-! ## Frame validation -/

/-- The frame has room for `$`, length, CRC16 and CRC8 (45_parse.md R140). -/
def frameStructOk (f : Text) : Bool := 9 ≤ f.length

/-- Check (a): the length field equals the data length plus 10, `n + 1` (45_parse.md R142). -/
def frameLenOk (f : Text) : Bool :=
  ishex (slice f 1 3) && hexval (slice f 1 3) == f.length + 1

/-- Check (b): CRC16 over length and data equals the CRC16 field (45_parse.md R142). -/
def frameCrc16Ok (f : Text) : Bool :=
  let body := slice f 1 (f.length - 6)
  let field := slice f (f.length - 6) (f.length - 2)
  body.length % 2 == 0 && ishex body && ishex field && (crc16Hex body).toNat == hexval field

/-- Check (c): CRC8 over everything before it equals the trailing two hex characters (45_parse.md R142). -/
def frameCrc8Ok (f : Text) : Bool :=
  let field := slice f (f.length - 2) f.length
  ishex field && (crc8 (slice f 0 (f.length - 2))).toNat == hexval field

/-- The result of validating `f`, the text from the `$` at index `q` (45_parse.md R140). -/
def frameChecks (q : Nat) (f : Text) : VRes :=
  let structOk := frameStructOk f
  let lenOk := structOk && frameLenOk f
  let crc16Ok := structOk && frameCrc16Ok f
  let crc8Ok := structOk && frameCrc8Ok f
  { found := true, structOk := structOk, lenOk := lenOk, crc16Ok := crc16Ok, crc8Ok := crc8Ok
    valid := structOk && lenOk && crc16Ok && crc8Ok, foff := BitVec.ofNat 16 q }

/-- The validation of a line from its last `$` (45_parse.md R140, R141). -/
def validateLine (s : Text) : VRes :=
  match rfind s dollar with
  | none => VRes.zero
  | some q => frameChecks q (s.drop q)

/-- FVALID (45_parse.md R140). -/
def execFvalid (s : State) : Host.Outcome State Fault Refusal := attempt s (.ok { s with vres := validateLine s.line })

/-! ## Ack and answer signals -/

/-- The ack signal `"$05" ++ H2(FUNC.CODE)` (45_parse.md R146). -/
def ackSignal (code : Byte) : Text := dollar :: 0x30 :: 0x35 :: H2 code

/-- The answer signal: `"$1C"` for variant 0 and `"$18"` for variant 1, then the address in wire order (45_parse.md R146). -/
def answerSignal (variant : Bool) (addr : Text) : Text :=
  dollar :: 0x31 :: (if variant then 0x38 else 0x43) :: addr

/-- MACK (45_parse.md R145): the sticky bit is set on a hit and kept on a miss. -/
def execMack (s : State) : Host.Outcome State Fault Refusal :=
  attempt s <| .ok <|
    match find s.line (ackSignal s.func) with
    | none => { s with mres := { s.mres with lastHit := false } }
    | some p => { s with mres := { s.mres with ackSeen := true, lastHit := true, lastOff := BitVec.ofNat 16 p } }

/-- `STATE_CHARS` (00_scope.md R6). -/
def stateChars : Nat := 12

/-- State byte `k` of the state text: hex characters `2k` and `2k+1` (10_state.md R38). -/
def stateByte (t : Text) (k : Nat) : Byte := BitVec.ofNat 8 (hexval (slice t (2 * k) (2 * k + 2)))

/-- The state text at index `a` is well-formed: 12 characters in the line, all hex (45_parse.md R147). -/
def stateWellFormed (line : Text) (a : Nat) : Bool :=
  a + stateChars ≤ line.length && ishex (slice line a (a + stateChars))

/-- What an answer-signal hit at index `p` does (45_parse.md R147). -/
def answerHit (p : Nat) (s : State) : State :=
  let a := p + 7
  let t := slice s.line a (a + stateChars)
  let hit := { s.mres with ansSeen := true, lastHit := true, lastOff := BitVec.ofNat 16 p }
  if stateWellFormed s.line a then
    { s with
      stateA := (stateByte t 3 ++ stateByte t 2 ++ stateByte t 1 ++ stateByte t 0 : BitVec 32)
      stateB := (stateByte t 5 ++ stateByte t 4 : BitVec 16)
      mres := { hit with stateOk := true } }
  else { s with mres := { hit with stateOk := false } }

/-- MANS v (45_parse.md R147): BAD_ARG for an address of more than 16 bits, else the search and the state extraction. -/
def execMans (imm : Byte) (s : State) : Host.Outcome State Fault Refusal :=
  attempt s <|
    if s.addrTop ≠ 0 then .error .badArg
    else
      match find s.line (answerSignal (variantOf imm) s.wireAddr) with
      | none => .ok { s with mres := { s.mres with lastHit := false } }
      | some p => .ok (answerHit p s)

/-! ## Byte alignment: chunks and hex fields -/

/-- CHUNK n (45_parse.md R150). -/
def execChunk (imm : Byte) (s : State) : Host.Outcome State Fault Refusal :=
  let p := s.cptr.toNat
  let n := countOf imm
  attempt s <|
    if p > s.wlen.toNat then .error .range
    else if p = s.wlen.toNat then .ok { s with cres := ⟨.ended, s.cptr⟩ }
    else if s.wlen.toNat - p < n then .ok { s with cres := ⟨.short, s.cptr⟩ }
    else if (s.wbufText p n).all isF then .ok { s with cres := ⟨.terminator, s.cptr⟩ }
    else .ok { s with cres := ⟨.chunk, s.cptr⟩, cptr := BitVec.ofNat 16 (p + n) }

/-- HEXGET n (45_parse.md R153): RANGE, NOT_HEX, then the number. -/
def execHexget (imm : Byte) (s : State) : Host.Outcome State Fault Refusal :=
  attempt s <|
    if !s.windowIn (countOf imm) then .error .range
    else if !ishex (s.windowText (countOf imm)) then .error .notHex
    else .ok { s with hval := BitVec.ofNat 32 (hexval (s.windowText (countOf imm))) }

end Sys2Proof.Machine
end

