-- ==== Sys2Proof/Machine/Dispatch.lean ====
section
/-! DEFINITION. The meaning of each command, one arm per constructor of Instr (30_encoding.md R68). -/

namespace Sys2Proof.Machine

def exec (i : Instr) (s : State) : Host.Outcome State Fault Refusal :=
  match i with
  -- 40_control.md
  | .nop => Sys2Proof.Machine.execNop s
  | .sreset => Sys2Proof.Machine.execSreset s
  -- 41_crc.md
  | .c16init => Sys2Proof.Machine.execC16init s
  | .c16byte b => Sys2Proof.Machine.execC16byte b s
  | .c16hex => Sys2Proof.Machine.execC16hex s
  | .c8init => Sys2Proof.Machine.execC8init s
  | .c8byte x => Sys2Proof.Machine.execC8byte x s
  | .c8text => Sys2Proof.Machine.execC8text s
  -- 42_address.md
  | .aenc => Sys2Proof.Machine.execAenc s
  | .akey k => Sys2Proof.Machine.execAkey k s
  | .aswap => Sys2Proof.Machine.execAswap s
  -- 43_frame_build.md
  | .fbuild => Sys2Proof.Machine.execFbuild s
  -- 45_parse.md
  | .fvalid => Sys2Proof.Machine.execFvalid s
  | .mack => Sys2Proof.Machine.execMack s
  | .mans v => Sys2Proof.Machine.execMans v s
  | .chunk n => Sys2Proof.Machine.execChunk n s
  | .hexget n => Sys2Proof.Machine.execHexget n s
  -- 44_link.md
  | .txstart => Sys2Proof.Machine.execTxstart s
  | .rxpop => Sys2Proof.Machine.execRxpop s
  | .rxflush => Sys2Proof.Machine.execRxflush s

end Sys2Proof.Machine
end

