-- ==== Sys2Proof/Machine/Step.lean ====
section
/-! DEFINITION. One step of the machine: one atomic step of one agent (20_memory.md R57). A write to CMD runs its whole command
inside that step (R52). -/

namespace Sys2Proof.Machine

/-- One step: the next agent's step; where it writes a command word, the decoded command runs in it, and an illegal word
raises BAD_CMD (10_state.md R25, 30_encoding.md R69). -/
def step (s : State) : Host.Outcome State Fault Refusal :=
  match nextAction s with
  | .done t => .next t
  | .run w t =>
    match decode w with
    | .ok i => exec i t
    | .error _ => .next (illegalWord t)

/-- `s` with the command word of table bits `w` as the host's next access: the block fetches nothing, so the word comes by a
32-bit write to CMD (10_state.md R22, R25; notes/assumptions/9.md). -/
def State.withFetchWord (s : State) (nbits w : Nat) : State :=
  { s with pending := cmdWrite s.cfg (BitVec.ofNat 32 (w % 2 ^ nbits)) :: s.pending }

end Sys2Proof.Machine
end

