-- ==== Sys2Proof/Machine/Script.lean ====
section
/-! DEFINITION. The host-script notation (30_encoding.md R70-R72): what each line stands for, as the events it puts on the host
bus or on the receive line. The host's own control flow (when a POLL ends, whether a BNZ branches) is host code (R70); a POLL
line says how many times its RD is repeated, and `pollEnds` and `branchTaken` are the two conditions
(notes/assumptions/12.md). -/

namespace Sys2Proof.Machine

/-- The two buffers a script can name (30_encoding.md R70). -/
inductive Buf where
  | txbuf
  | wbuf
  deriving DecidableEq, Repr

/-- The offset of byte 0 of a buffer (30_encoding.md R70). -/
def Buf.base : Buf → Nat
  | .txbuf => txbufBase
  | .wbuf => wbufBase

/-- A line of a host script (30_encoding.md R70, R71). -/
inductive ScriptLine where
  /-- `WR REG, v` -/
  | wr (r : Reg) (v : Word)
  /-- `RD REG` -/
  | rd (r : Reg)
  /-- `WB TXBUF[i], b` or `WB WBUF[i], b` -/
  | wb (buf : Buf) (i : Nat) (b : Byte)
  /-- `RB TXBUF[i]` or `RB WBUF[i]` -/
  | rb (buf : Buf) (i : Nat)
  /-- `CMD MNEMONIC` or `CMD MNEMONIC imm` -/
  | cmd (mnemonic : String) (imm : Option Nat)
  /-- `WS WBUF[i], "text"` or `WS TXBUF[i], "text"` -/
  | ws (buf : Buf) (i : Nat) (text : Text)
  /-- `POLL REG, mask, value`, its RD performed `reads` times -/
  | poll (r : Reg) (mask value : Word) (reads : Nat)
  /-- `BNZ REG, mask, label` -/
  | bnz (r : Reg) (mask : Word)
  /-- `LOADW "text"` -/
  | loadw (text : Text)
  /-- `RXIN "text"`: not a host action; the receive line supplies the text and the terminator -/
  | rxin (text : Text)
  deriving DecidableEq, Repr

/-- Why a script line is refused (30_encoding.md R70, R72). -/
inductive ScriptError where
  /-- The spelling is not in R68. -/
  | unknownMnemonic (mnemonic : String)
  /-- An immediate is written for a class `z` row. -/
  | immNotAllowed (mnemonic : String)
  /-- The immediate that the class requires is missing. -/
  | immMissing (mnemonic : String)
  /-- The immediate breaks the row's condition. -/
  | immIllegal (mnemonic : String)
  deriving DecidableEq, Repr

/-- The word of `CMD MNEMONIC` or `CMD MNEMONIC imm` (30_encoding.md R70, R72). -/
def commandWord (mnemonic : String) (imm : Option Nat) : Except ScriptError Word :=
  match opcodeMap.find? fun row => row.mnemonic == mnemonic with
  | none => .error (.unknownMnemonic mnemonic)
  | some row =>
    match row.immClass, imm with
    | .zero, none => .ok row.pattern
    | .zero, some _ => .error (.immNotAllowed mnemonic)
    | _, none => .error (.immMissing mnemonic)
    | c, some k =>
      if k < 256 && c.admits (BitVec.ofNat 8 k) then .ok (row.pattern + (BitVec.ofNat 32 k <<< 8))
      else .error (.immIllegal mnemonic)

/-- `WR REG, v` as an event. -/
def wrEvent (cfg : Config) (r : Reg) (v : Word) : Event := .host (.write (cfg.base + r.offset) .word v)

/-- `RD REG` as an event. -/
def rdEvent (cfg : Config) (r : Reg) : Event := .host (.read (cfg.base + r.offset) .word)

/-- `WB BUF[i], b` as an event. -/
def wbEvent (cfg : Config) (buf : Buf) (i : Nat) (b : Byte) : Event :=
  .host (.write (cfg.base + buf.base + i) .byte (b.setWidth 32))

/-- `WS BUF[i], "text"` as events: one byte write per character code, in order (30_encoding.md R71). -/
def wsEvents (cfg : Config) (buf : Buf) (i : Nat) : Text → List Event
  | [] => []
  | c :: t => wbEvent cfg buf i c :: wsEvents cfg buf (i + 1) t

/-- The events a script line stands for (30_encoding.md R70, R71), or why it is refused. -/
def ScriptLine.events (cfg : Config) : ScriptLine → Except ScriptError (List Event)
  | .wr r v => .ok [wrEvent cfg r v]
  | .rd r => .ok [rdEvent cfg r]
  | .wb buf i b => .ok [wbEvent cfg buf i b]
  | .rb buf i => .ok [.host (.read (cfg.base + buf.base + i) .byte)]
  | .cmd mnemonic imm => (commandWord mnemonic imm).map fun w => [cmdWrite cfg w]
  | .ws buf i text => .ok (wsEvents cfg buf i text)
  | .poll r _ _ reads => .ok (List.replicate reads (rdEvent cfg r))
  | .bnz r _ => .ok [rdEvent cfg r]
  | .loadw text => .ok (wsEvents cfg .wbuf 0 text ++ [wrEvent cfg .wlen (BitVec.ofNat 32 text.length)])
  | .rxin text => .ok (text.map Event.rxChar ++ [.rxChar cfg.term])

/-- The events of a script, or the number of the first refused line and why (30_encoding.md R72). -/
def scriptEventsFrom (cfg : Config) (lineNo : Nat) : List ScriptLine → Except (Nat × ScriptError) (List Event)
  | [] => .ok []
  | l :: ls =>
    match l.events cfg with
    | .error e => .error (lineNo, e)
    | .ok evs =>
      match scriptEventsFrom cfg (lineNo + 1) ls with
      | .error e => .error e
      | .ok rest => .ok (evs ++ rest)

/-- The events of a host script, its lines numbered from 1 (30_encoding.md R70). -/
def scriptEvents (cfg : Config) (script : List ScriptLine) : Except (Nat × ScriptError) (List Event) :=
  scriptEventsFrom cfg 1 script

/-- The loop of `POLL REG, mask, value` ends at this read (30_encoding.md R71). -/
def pollEnds (read mask value : Word) : Bool := (read &&& mask) == value

/-- `BNZ REG, mask, label` branches at this read (30_encoding.md R71). -/
def branchTaken (read mask : Word) : Bool := (read &&& mask) != 0

end Sys2Proof.Machine
end

