-- ==== Sys2Proof/Safety.lean ====
section
/-! DEFINITION. What the spec asks of the parameters, and the invariant of every run: the bounds, the shape of the receive
state, the result registers' relations and the memory's canonical form. -/

namespace Sys2Proof.Machine

/-- What the spec asks of the OPEN parameters (00_scope.md R6, 10_state.md R43): TERM is neither `$` nor a hex digit, and
RXQ_DEPTH is 1 to 255. -/
structure ConfigLegal (cfg : Config) : Prop where
  term_not_dollar : cfg.term ≠ dollar
  term_not_hex : isHexDigit cfg.term = false
  depth_pos : 1 ≤ cfg.rxqDepth
  depth_le : cfg.rxqDepth ≤ 255

/-- A queued line: 1 to `MAX_LINE` characters, none of them `TERM` (10_state.md R47). -/
structure LineOk (cfg : Config) (l : Text) : Prop where
  nonempty : 1 ≤ l.length
  length_le : l.length ≤ maxLine
  no_term : cfg.term ∉ l

/-- The invariant that every step keeps, from any state that has it. -/
structure Inv (s : State) : Prop where
  /-- The parameters are legal (00_scope.md R6). -/
  cfg_legal : ConfigLegal s.cfg
  /-- `WLEN.LEN ≤ WBUF_SIZE` in every state (10_state.md R34). -/
  wlen_le : s.wlen.toNat ≤ wbufSize
  /-- `TXLEN.LEN ≤ TXBUF_SIZE` in every state (10_state.md R35). -/
  txlen_le : s.txlen.toNat ≤ txbufSize
  /-- During a transmission TXPOS has not passed TXLEN (44_link.md R121). -/
  txpos_le : s.txbusy = true → s.txpos.toNat ≤ s.txlen.toNat
  /-- The written cells are in canonical form. -/
  mem_wf : Memory.wf s.mem = true
  /-- Only buffer offsets are written (20_memory.md R51). -/
  mem_offsets : ∀ c ∈ s.mem, txbufBase ≤ c.1 ∧ c.1 < spaceEnd
  /-- RXQ holds at most `RXQ_DEPTH` lines (10_state.md R47). -/
  rxq_le : s.rxq.length ≤ s.cfg.rxqDepth
  /-- Every queued line is well-shaped (10_state.md R47). -/
  rxq_lines : ∀ l ∈ s.rxq, LineOk s.cfg l
  /-- PART holds at most `MAX_LINE` characters (10_state.md R47). -/
  part_le : s.part.length ≤ maxLine
  /-- PART never holds the terminator (44_link.md R120, R127). -/
  part_no_term : s.cfg.term ∉ s.part
  /-- While a long line is being dropped, PART is empty (44_link.md R127). -/
  discard_part : s.discard = true → s.part = []
  /-- VRES is 0 where FOUND is 0 (10_state.md R36). -/
  vres_not_found : s.vres.found = false → s.vres = VRes.zero
  /-- VALID is the AND of the four checks (10_state.md R36). -/
  vres_valid : s.vres.valid = (s.vres.structOk && s.vres.lenOk && s.vres.crc16Ok && s.vres.crc8Ok)
  /-- A well-formed state follows an answer signal that was seen (10_state.md R37). -/
  mres_state : s.mres.stateOk = true → s.mres.ansSeen = true
  /-- A hit leaves a sticky bit (10_state.md R37). -/
  mres_hit : s.mres.lastHit = true → s.mres.ackSeen = true ∨ s.mres.ansSeen = true
  /-- CRES is 0 before the first CHUNK (10_state.md R41). -/
  cres_none : s.cres.kind = .none → s.cres = CRes.zero

end Sys2Proof.Machine
end

