-- ==== Sys2Proof/Certificates/Slice0/Obligations.lean ====
section
/-! DEFINITION. The statements about the machine, for the provers. Each docstring names the rule of spec/ it states. The fields
`pending`, `resp`, `txLine` and `resets` of State are the model's own (notes/assumptions/2.md, 5.md, 7.md, 14.md): a statement
about one step takes the first event off `pending` and records the bus answer in `resp`. -/

namespace Sys2Proof.Machine

/-! ## Words used by the statements -/

/-- The unassigned operation codes, as 30_encoding.md R69 lists them. -/
def unassignedOp (op : Nat) : Bool :=
  (0x02 ≤ op && op ≤ 0x0F) || (0x13 ≤ op && op ≤ 0x17) || (0x1B ≤ op && op ≤ 0x1F) || (0x23 ≤ op && op ≤ 0x2F) ||
    (0x36 ≤ op && op ≤ 0x3F) || (0x43 ≤ op && op ≤ 0xFF)

/-- The reset column of the table of 10_state.md section 2 (R48). -/
def resetWord : Reg → Word
  | .crc16 => 0x0000FFFF
  | _ => 0x00000000

/-- The address and width of a host access. -/
def Access.place : Access → Nat × Width
  | .read addr n => (addr, n)
  | .write addr n _ => (addr, n)

/-- The accesses that succeed, by the table of 20_memory.md R51 and the pseudocode of R55. -/
def accessSucceeds (cfg : Config) (a : Access) : Prop :=
  cfg.base ≤ a.place.1 ∧
    ((a.place.1 - cfg.base ≤ 0x057 ∧ a.place.2 = .word ∧ (a.place.1 - cfg.base) % 4 = 0) ∨
      (0x100 ≤ a.place.1 - cfg.base ∧ a.place.1 - cfg.base ≤ 0x3FF ∧ a.place.2 = .byte))

/-- `sig` stands in `WBUF[0 .. WLEN)` at index `p`. -/
def signalAt (s : State) (sig : Text) (p : Nat) : Prop :=
  p + sig.length ≤ s.wlen.toNat ∧ ∀ j, (h : j < sig.length) → s.wbuf (p + j) = sig[j]

/-- FBUILD refuses nothing (43_frame_build.md R110). -/
def fbuildAccepts (s : State) : Prop :=
  s.txbusy = false ∧ s.boff.toNat + s.blen.toNat ≤ s.wlen.toNat ∧ s.ain.toNat < 2 ^ 16 ∧ s.blen.toNat % 2 = 0 ∧
    s.blen.toNat ≤ 238 ∧ ∀ j, j < s.blen.toNat → isHexDigit (s.wbuf (s.boff.toNat + j)) = true

/-- The codes each command can raise once its word is legal (60_exceptions.md R160, R166). -/
def raisable : Instr → ErrCode → Bool
  | .c16hex, e => e == .range || e == .badArg || e == .notHex
  | .c8text, e => e == .range
  | .aswap, e => e == .badArg
  | .fbuild, e => e == .busy || e == .range || e == .badArg || e == .notHex
  | .mans _, e => e == .badArg
  | .chunk _, e => e == .range
  | .hexget _, e => e == .range || e == .notHex
  | .txstart, e => e == .busy
  | .rxpop, e => e == .empty
  | .nop, _ | .sreset, _ | .c16init, _ | .c16byte _, _ | .c8init, _ | .c8byte _, _ | .aenc, _ | .akey _, _ | .fvalid, _
  | .mack, _ | .rxflush, _ => false

end Sys2Proof.Machine

open Sys2Proof Sys2Proof.Machine

/-! ## Encoding -/

/-- Words written out from the encodings of 30_encoding.md R65 and R68: RSV 31:16, IMM8 15:8, OP 7:0. -/
def Obligations.SpecWordsDecode : Prop :=
  decode 0x00000000 = .ok .nop ∧ decode 0x00000001 = .ok .sreset ∧ decode 0x0000FF11 = .ok (.c16byte 0xFF) ∧
  decode 0x00002419 = .ok (.c8byte 0x24) ∧ decode 0x00000321 = .ok (.akey 3) ∧ decode 0x00000030 = .ok .fbuild ∧
  decode 0x00000133 = .ok (.mans 1) ∧ decode 0x00000C34 = .ok (.chunk 12) ∧ decode 0x00000835 = .ok (.hexget 8) ∧
  decode 0x00000040 = .ok .txstart ∧ decode 0x00010000 = .error .reservedBits ∧ decode 0x00000002 = .error .unassignedOp ∧
  decode 0x00000110 = .error .immOutOfClass ∧ decode 0x00001021 = .error .immOutOfClass ∧
  decode 0x00000034 = .error .immOutOfClass ∧ decode 0x00000935 = .error .immOutOfClass

/-- 30_encoding.md R65-R68: no bit of an encoding is dropped. -/
def Obligations.DecodeOfEncodeIsTheCommand : Prop :=
  ∀ i : Instr, i.wellFormed = true → decode (encode i) = .ok i

/-- 30_encoding.md R66: every legal word has one meaning, which is well-formed and encodes back to the word. -/
def Obligations.EncodeOfDecodeIsTheWord : Prop :=
  ∀ (w : Word) (i : Instr), decode w = .ok i → i.wellFormed = true ∧ encode i = w

/-- 30_encoding.md R68: the decoder reads exactly the words that match a row of the opcode map, as that row's mnemonic, and no
word matches two rows. -/
def Obligations.DecodeFollowsTheOpcodeMap : Prop :=
  (∀ (w : Word) (m : String), (∃ i, decode w = .ok i ∧ i.mnemonic = m) ↔
    ∃ row ∈ opcodeMap, row.mnemonic = m ∧ (w &&& row.mask) = row.pattern ∧
      row.immClass.admits (w.extractLsb' 8 8) = true) ∧
  ∀ w : Word, ∀ row ∈ opcodeMap, ∀ row' ∈ opcodeMap, row.accepts w = true → row'.accepts w = true → row = row'

/-- 30_encoding.md R69: a CMD word with RSV ≠ 0, an unassigned OP or an IMM8 outside its row's condition raises BAD_CMD and
changes nothing else; the access itself is answered without a bus error. -/
def Obligations.IllegalWordRaisesBadCmdOnly : Prop :=
  ∀ (s : State) (w : Word) (rest : List Event), s.pending = cmdWrite s.cfg w :: rest →
    (w.extractLsb' 16 16 ≠ 0 ∨ unassignedOp (w.extractLsb' 0 8).toNat = true ∨
      ∃ row ∈ opcodeMap, row.pattern.extractLsb' 0 8 = w.extractLsb' 0 8 ∧
        row.immClass.admits (w.extractLsb' 8 8) = false) →
    step s = .next { s with pending := rest, resp := .written, errcode := .badCmd }

/-! ## Steps -/

/-- 10_state.md R25: a 32-bit write to CMD runs the command in that step; a read gives 0 and has no effect. -/
def Obligations.StepRunsTheWrittenCommand : Prop :=
  (∀ (s : State) (w : Word) (i : Instr) (rest : List Event), s.pending = cmdWrite s.cfg w :: rest → decode w = .ok i →
    step s = exec i { s with pending := rest, resp := .written }) ∧
  ∀ (s : State) (rest : List Event), s.pending = rdEvent s.cfg .cmd :: rest →
    step s = .next { s with pending := rest, resp := .data 0 }

/-- 60_exceptions.md R165, R168, R172: no command, access, character or reset stops the block. -/
def Obligations.EveryStepAnswersNext : Prop :=
  ∀ s : State, ∃ t, step s = .next t

/-- The invariant holds right after reset (10_state.md R48). -/
def Obligations.InvariantHoldsAtReset : Prop :=
  Inv State.reset

/-- The bounds of 10_state.md R34, R35, R43 and R47, the relations of the result registers (R36, R37, R41) and the memory's
canonical form are kept by every step, from any state that has them. -/
def Obligations.StepKeepsTheInvariant : Prop :=
  ∀ s t : State, Inv s → step s = .next t → Inv t

/-! ## Reset -/

/-- 10_state.md R48: what State.reset holds. The buffer bytes are the free values of a draw. -/
def Obligations.ResetHoldsTheTableValues : Prop :=
  (∀ r, State.reset.readReg r = resetWord r) ∧ State.reset.rxq = [] ∧ State.reset.part = [] ∧
    State.reset.discard = false ∧ State.reset.rxen = false ∧ State.reset.irq = false ∧
    ∀ off, State.reset.cell off = Config.unwrittenByte State.reset.resets off

/-- 70_reset_and_hazards.md R180 and 10_state.md R48: the reset input puts every register at its table value, empties the
receive state, stops the transmission and leaves every buffer byte unspecified (a new draw). -/
def Obligations.HardwareResetRestoresEverything : Prop :=
  ∀ (s : State) (rest : List Event), ConfigLegal s.cfg → s.pending = .hardReset :: rest →
    ∃ t, step s = .next t ∧ (∀ r, t.readReg r = resetWord r) ∧ t.rxq = [] ∧ t.part = [] ∧ t.discard = false ∧
      t.txbusy = false ∧ t.irq = false ∧ t.resets ≠ s.resets ∧ (∀ off, t.cell off = Config.unwrittenByte t.resets off) ∧
      t.cfg = s.cfg ∧ t.txLine = s.txLine ∧ t.pending = rest

/-- 40_control.md R82: SRESET (word 0x00000001) completes and gives the reset state, except that TXBUF and WBUF keep their bytes;
what was emitted stays emitted, and no terminator follows. The parameters are legal, as the spec asks (00_scope.md R6). -/
def Obligations.SresetKeepsBuffersOnly : Prop :=
  encode .sreset = 0x00000001 ∧ ∀ s : State, ConfigLegal s.cfg →
    ∃ t, exec .sreset s = .next t ∧ (∀ r, t.readReg r = resetWord r) ∧ t.rxq = [] ∧ t.part = [] ∧ t.discard = false ∧
      t.txbusy = false ∧ (∀ off, t.cell off = s.cell off) ∧
      t = { State.reset with
        cfg := s.cfg, mem := s.mem, resets := s.resets, pending := s.pending, txLine := s.txLine, resp := s.resp }

/-- 40_control.md R80: NOP completes and changes nothing. -/
def Obligations.NopChangesNothing : Prop :=
  encode .nop = 0x00000000 ∧ ∀ s : State, exec .nop s = .next s

/-! ## The host bus -/

/-- 20_memory.md R55, R56: a 32-bit read of a register and a byte read of a buffer are answered, and no read has a side
effect. 10_state.md section 2 and 20_memory.md R51: the registers and the buffers stand at these offsets. -/
def Obligations.ReadsAnswerAndChangeNothing : Prop :=
  (∀ (r : Reg) (off : Nat),
    (r, off) ∈ [(Reg.ctrl, 0x000), (.status, 0x004), (.cmd, 0x008), (.errcode, 0x00C), (.crc16, 0x010), (.crc8, 0x014),
      (.ain, 0x018), (.aout, 0x01C), (.func, 0x020), (.boff, 0x024), (.blen, 0x028)] ++
      [(.wlen, 0x02C), (.txlen, 0x030), (.vres, 0x034), (.mres, 0x038), (.stateA, 0x03C), (.stateB, 0x040),
      (.cptr, 0x044), (.cres, 0x048), (.hval, 0x04C), (.rxcnt, 0x050), (.txpos, 0x054)] →
    r.offset = off ∧ ∀ (s : State) (rest : List Event), s.pending = .host (.read (s.cfg.base + off) .word) :: rest →
      step s = .next { s with pending := rest, resp := .data (s.readReg r) }) ∧
  (∀ (s : State) (i : Nat), s.txbuf i = s.cell (0x100 + i) ∧ s.wbuf i = s.cell (0x200 + i)) ∧
  (∀ (s : State) (r : Reg) (rest : List Event), s.pending = rdEvent s.cfg r :: rest →
    step s = .next { s with pending := rest, resp := .data (s.readReg r) }) ∧
  ∀ (s : State) (off : Nat) (rest : List Event), 0x100 ≤ off → off ≤ 0x3FF →
    s.pending = .host (.read (s.cfg.base + off) .byte) :: rest →
    step s = .next { s with pending := rest, resp := .data ((s.cell off).setWidth 32) }

/-- 20_memory.md R55 and 60_exceptions.md R168: an access of the wrong width, misaligned, in 0x058-0x0FF or outside the register
space is answered with a bus error and does nothing else, a write to CMD included; every other access is not a bus error. -/
def Obligations.RefusedAccessIsABusErrorOnly : Prop :=
  (∀ (s : State) (a : Access) (rest : List Event), s.pending = .host a :: rest → ¬ accessSucceeds s.cfg a →
    step s = .next { s with pending := rest, resp := .error .busError }) ∧
  ∀ (s : State) (a : Access) (rest : List Event), s.pending = .host a :: rest → accessSucceeds s.cfg a →
    ∃ t, step s = .next t ∧ t.resp ≠ .error .busError

/-- 10_state.md R45, R46: a byte write to WBUF, and to TXBUF while TXBUSY = 0, writes that byte and nothing else. -/
def Obligations.BufferByteWriteReadsBack : Prop :=
  ∀ (s : State) (off : Nat) (v : Word) (rest : List Event),
    ((0x100 ≤ off ∧ off < 0x200 ∧ s.txbusy = false) ∨ (0x200 ≤ off ∧ off < 0x400)) →
    s.pending = .host (.write (s.cfg.base + off) .byte v) :: rest →
    ∃ t, step s = .next t ∧ t.cell off = v.extractLsb' 0 8 ∧ (∀ y, y ≠ off → t.cell y = s.cell y) ∧
      t = { s with mem := t.mem, pending := rest, resp := .written }

/-- 44_link.md R126: while TXBUSY = 1 a TXBUF write, a TXLEN write, FBUILD and TXSTART raise BUSY and change nothing else; TXBUF
and register reads are allowed; and of all host accesses only the SRESET command stops the transmission. -/
def Obligations.BusyTransmitterRefusesChanges : Prop :=
  ∀ s : State, s.txbusy = true →
    (∀ (i : Nat) (v : Word) (rest : List Event), i < 256 →
      s.pending = .host (.write (s.cfg.base + (0x100 + i)) .byte v) :: rest →
      step s = .next { s with pending := rest, resp := .written, errcode := .busy }) ∧
    (∀ (v : Word) (rest : List Event), s.pending = wrEvent s.cfg .txlen v :: rest →
      step s = .next { s with pending := rest, resp := .written, errcode := .busy }) ∧
    exec .fbuild s = .next { s with errcode := .busy } ∧
    exec .txstart s = .next { s with errcode := .busy } ∧
    (∀ (i : Nat) (rest : List Event), i < 256 → s.pending = .host (.read (s.cfg.base + (0x100 + i)) .byte) :: rest →
      step s = .next { s with pending := rest, resp := .data ((s.txbuf i).setWidth 32) }) ∧
    (∀ (r : Reg) (rest : List Event), s.pending = rdEvent s.cfg r :: rest →
      step s = .next { s with pending := rest, resp := .data (s.readReg r) }) ∧
    ∀ (a : Access) (rest : List Event) (t : State), s.pending = .host a :: rest → step s = .next t → t.txbusy = false →
      a = .write (s.cfg.base + 0x008) .word 0x00000001

/-- 10_state.md R27, R28, R29, R31, R32, R33, R40: a plain RW register reads back the written value with its reserved bits 0, and
the write changes nothing else. -/
def Obligations.PlainRegistersReadBackMasked : Prop :=
  ∀ (r : Reg) (mask : Word),
    (r, mask) ∈ [(Reg.crc16, (0x0000FFFF : Word)), (.crc8, 0x000000FF), (.ain, 0x00FFFFFF), (.func, 0x000000FF),
      (.boff, 0x0000FFFF), (.blen, 0x0000FFFF), (.cptr, 0x0000FFFF)] →
    ∀ (s : State) (v : Word) (rest : List Event), s.pending = wrEvent s.cfg r v :: rest →
      ∃ t, step s = .next t ∧ t.readReg r = v &&& mask ∧ (∀ r', r' ≠ r → t.readReg r' = s.readReg r') ∧
        t.mem = s.mem ∧ t.rxq = s.rxq ∧ t.part = s.part ∧ t.discard = s.discard ∧ t.txLine = s.txLine ∧ t.cfg = s.cfg ∧
        t.resets = s.resets ∧ t.resp = .written ∧ t.pending = rest

/-- 10_state.md R23: a CTRL write keeps bits 4:0; one that changes RXEN from 1 to 0 empties PART and clears DISCARD; RXQ stays. -/
def Obligations.CtrlWriteAndReceiverDisable : Prop :=
  ∀ (s : State) (v : Word) (rest : List Event), s.pending = wrEvent s.cfg .ctrl v :: rest →
    ∃ t, step s = .next t ∧ t.readReg .ctrl = v &&& 0x0000001F ∧
      (s.rxen = true ∧ v.getLsbD 0 = false → t.part = [] ∧ t.discard = false) ∧
      (¬ (s.rxen = true ∧ v.getLsbD 0 = false) → t.part = s.part ∧ t.discard = s.discard) ∧
      t = { s with ctrl := t.ctrl, part := t.part, discard := t.discard, pending := rest, resp := .written }

/-- 10_state.md R24: the bits of STATUS, what a write of it clears, and that it clears nothing else. 60_exceptions.md R170: IRQ is
the OR of the four enabled sources. -/
def Obligations.StatusBitsAndWriteOneToClear : Prop :=
  (∀ s : State,
    (s.readReg .status).getLsbD 0 = decide (s.rxq ≠ []) ∧ (s.readReg .status).getLsbD 1 = s.txbusy ∧
    (s.readReg .status).getLsbD 2 = s.txdone ∧ (s.readReg .status).getLsbD 3 = decide (s.errcode ≠ .none) ∧
    (s.readReg .status).getLsbD 4 = s.ovr ∧ (s.readReg .status).getLsbD 5 = s.long ∧
    (s.readReg .status).getLsbD 6 = decide (s.rxq.length = s.cfg.rxqDepth) ∧ (s.readReg .status).getLsbD 7 = s.irq ∧
    s.irq = (((s.readReg .status).getLsbD 0 && (s.readReg .ctrl).getLsbD 1) ||
      ((s.readReg .status).getLsbD 2 && (s.readReg .ctrl).getLsbD 2) ||
      ((s.readReg .status).getLsbD 3 && (s.readReg .ctrl).getLsbD 3) ||
      (((s.readReg .status).getLsbD 4 || (s.readReg .status).getLsbD 5) && (s.readReg .ctrl).getLsbD 4)) ∧
    ∀ k, 8 ≤ k → (s.readReg .status).getLsbD k = false) ∧
  ∀ (s : State) (v : Word) (rest : List Event), s.pending = wrEvent s.cfg .status v :: rest →
    step s = .next { s with
      txdone := if v.getLsbD 2 then false else s.txdone
      ovr := if v.getLsbD 4 then false else s.ovr
      long := if v.getLsbD 5 then false else s.long
      pending := rest, resp := .written }

/-- 10_state.md R24: only a terminator emitted sets TXDONE, only a line dropped on a full queue sets OVR, only an overlong line
sets LONG; only a STATUS write with the bit, SRESET or a hardware reset clears one. -/
def Obligations.StickyStatusBitsHaveOnlyTheirCauses : Prop :=
  ∀ s t : State, step s = .next t →
    (s.txdone = false → t.txdone = true → s.txbusy = true ∧ t.txbusy = false ∧ t.txLine = s.txLine ++ [s.cfg.term]) ∧
    (s.ovr = false → t.ovr = true → s.rxen = true ∧ s.discard = false ∧ s.part ≠ [] ∧ s.rxq.length = s.cfg.rxqDepth ∧
      t.rxq = s.rxq ∧ ∃ rest, s.pending = .rxChar s.cfg.term :: rest) ∧
    (s.long = false → t.long = true → s.rxen = true ∧ s.discard = false ∧ 512 ≤ s.part.length ∧ t.discard = true ∧
      ∃ c rest, c ≠ s.cfg.term ∧ s.pending = .rxChar c :: rest) ∧
    (∀ (k : Nat) (bit : State → Bool),
      ((k = 2 ∧ bit = State.txdone) ∨ (k = 4 ∧ bit = State.ovr) ∨ (k = 5 ∧ bit = State.long)) →
      bit s = true → bit t = false →
      ∃ rest, s.pending = .hardReset :: rest ∨ s.pending = cmdWrite s.cfg 0x00000001 :: rest ∨
        ∃ v : Word, v.getLsbD k = true ∧ s.pending = wrEvent s.cfg .status v :: rest)

/-- 10_state.md R26, R37, R30 to R44: any write clears ERRCODE or MRES; a write to a read-only register is ignored without an
error. -/
def Obligations.ClearingAndReadOnlyWrites : Prop :=
  (∀ (s : State) (v : Word) (rest : List Event), s.pending = wrEvent s.cfg .errcode v :: rest →
    step s = .next { s with errcode := .none, pending := rest, resp := .written }) ∧
  (∀ (s : State) (v : Word) (rest : List Event), s.pending = wrEvent s.cfg .mres v :: rest →
    ∃ t, step s = .next t ∧ t.readReg .mres = 0 ∧ t = { s with mres := t.mres, pending := rest, resp := .written }) ∧
  ∀ r ∈ [Reg.aout, .vres, .stateA, .stateB, .cres, .hval, .rxcnt, .txpos],
    ∀ (s : State) (v : Word) (rest : List Event), s.pending = wrEvent s.cfg r v :: rest →
      step s = .next { s with pending := rest, resp := .written }

/-- 10_state.md R34, R35: writes of WLEN and TXLEN are checked against the buffer sizes, and refused writes keep the register. -/
def Obligations.LengthWritesAreChecked : Prop :=
  (∀ (s : State) (v : Word) (rest : List Event), s.pending = wrEvent s.cfg .wlen v :: rest →
    (512 < (v &&& 0x0000FFFF).toNat → step s = .next { s with errcode := .range, pending := rest, resp := .written }) ∧
    ((v &&& 0x0000FFFF).toNat ≤ 512 → ∃ t, step s = .next t ∧ t.readReg .wlen = v &&& 0x0000FFFF ∧
      t = { s with wlen := t.wlen, pending := rest, resp := .written })) ∧
  ∀ (s : State) (v : Word) (rest : List Event), s.pending = wrEvent s.cfg .txlen v :: rest → s.txbusy = false →
    (256 < (v &&& 0x0000FFFF).toNat → step s = .next { s with errcode := .range, pending := rest, resp := .written }) ∧
    ((v &&& 0x0000FFFF).toNat ≤ 256 → ∃ t, step s = .next t ∧ t.readReg .txlen = v &&& 0x0000FFFF ∧
      t = { s with txlen := t.txlen, pending := rest, resp := .written })

/-- 10_state.md R23, R27 to R44: what each register shows. The fields of the result words, and their reserved bits read 0; every
other register reads its field zero-extended; the numbers of ERRCODE.CODE (60_exceptions.md R160) and of CRES.KIND (R41). -/
def Obligations.ResultWordsShowTheirFields : Prop :=
  (∀ (s : State) (k : Nat),
    ((s.readReg .aout).getLsbD k = if k < 24 then s.aout.getLsbD k else if k = 31 then s.unres else false) ∧
    ((s.readReg .vres).getLsbD k =
      if k = 0 then s.vres.found else if k = 1 then s.vres.structOk else if k = 2 then s.vres.lenOk
      else if k = 3 then s.vres.crc16Ok else if k = 4 then s.vres.crc8Ok else if k = 5 then s.vres.valid
      else if 16 ≤ k then s.vres.foff.getLsbD (k - 16) else false) ∧
    ((s.readReg .mres).getLsbD k =
      if k = 0 then s.mres.ackSeen else if k = 1 then s.mres.ansSeen else if k = 2 then s.mres.stateOk
      else if k = 3 then s.mres.lastHit else if 16 ≤ k then s.mres.lastOff.getLsbD (k - 16) else false) ∧
    ((s.readReg .cres).getLsbD k =
      if k < 3 then s.cres.kind.code.getLsbD k else if 16 ≤ k then s.cres.start.getLsbD (k - 16) else false) ∧
    ((s.readReg .rxcnt).getLsbD k =
      if k < 8 then (BitVec.ofNat 8 s.rxq.length).getLsbD k else if k = 8 then s.discard
      else if 16 ≤ k then (BitVec.ofNat 16 s.part.length).getLsbD (k - 16) else false)) ∧
  (∀ s : State,
    s.readReg .ctrl = s.ctrl.setWidth 32 ∧ s.rxen = s.ctrl.getLsbD 0 ∧
    s.readReg .crc16 = s.acc16.setWidth 32 ∧ s.readReg .crc8 = s.acc8.setWidth 32 ∧
    s.readReg .ain = s.ain.setWidth 32 ∧ s.readReg .func = s.func.setWidth 32 ∧
    s.readReg .boff = s.boff.setWidth 32 ∧ s.readReg .blen = s.blen.setWidth 32 ∧
    s.readReg .wlen = s.wlen.setWidth 32 ∧ s.readReg .txlen = s.txlen.setWidth 32 ∧
    s.readReg .stateA = s.stateA ∧ s.readReg .stateB = s.stateB.setWidth 32 ∧
    s.readReg .cptr = s.cptr.setWidth 32 ∧ s.readReg .hval = s.hval ∧ s.readReg .txpos = s.txpos.setWidth 32) ∧
  (∀ (s : State) (e : ErrCode) (n : Word),
    (e, n) ∈ [(ErrCode.none, (0 : Word)), (.badCmd, 1), (.busy, 2), (.range, 3), (.badArg, 4), (.notHex, 5), (.empty, 6)] →
    s.errcode = e → s.readReg .errcode = n) ∧
  ∀ (s : State) (kind : ChunkKind) (n : BitVec 3),
    (kind, n) ∈ [(ChunkKind.none, (0 : BitVec 3)), (.chunk, 1), (.terminator, 2), (.short, 3), (.ended, 4)] →
    s.cres.kind = kind → (s.readReg .cres).extractLsb' 0 3 = n

/-! ## CRC generator -/

/-- 41_crc.md R87, R88, R90, R91: the four commands that always succeed, and the steps' corner cases. -/
def Obligations.CrcInitAndByteCommands : Prop :=
  (encode .c16init = 0x00000010 ∧ encode .c8init = 0x00000018 ∧ ∀ b : Byte,
    encode (.c16byte b) = 0x00000011 + (b.setWidth 32 <<< 8) ∧ encode (.c8byte b) = 0x00000019 + (b.setWidth 32 <<< 8)) ∧
  (step16 0x0000 0x00 = 0x0000 ∧ step16 0xFFFF 0xFF = 0xFF00 ∧ step8 0x00 0x00 = 0x00 ∧ step8 0x00 0x01 = 0x99 ∧
    step8 0xFF 0xFF = 0x00 ∧ step8 0x00 0xFF = 0xA0) ∧
  ∀ s : State,
    exec .c16init s = .next { s with acc16 := 0xFFFF } ∧
    exec .c8init s = .next { s with acc8 := 0x00 } ∧
    (∀ b, exec (.c16byte b) s = .next { s with acc16 := step16 s.acc16 b }) ∧
    ∀ x, exec (.c8byte x) s = .next { s with acc8 := step8 s.acc8 x }

/-- 41_crc.md R85, R86: each step is 8 divisions by the polynomial, most significant bit first, and the CRC of a text is the fold
of its steps. R93 (carry-less arithmetic in GF(2)): both steps are linear, and a lone low bit gives the polynomials. -/
def Obligations.CrcStepsAreCarryLess : Prop :=
  (∀ (c : BitVec 16) (b : Byte), step16 c b =
    (List.range 8).foldl (fun c _ => if c.getLsbD 15 then (c <<< 1) ^^^ 0x1021 else c <<< 1) (c ^^^ (b.setWidth 16 <<< 8))) ∧
  (∀ c x : Byte, step8 c x =
    (List.range 8).foldl (fun c _ => if c.getLsbD 7 then (c <<< 1) ^^^ 0x99 else c <<< 1) (c ^^^ x)) ∧
  (∀ t : Text, t.length % 2 = 0 → crc16Hex t =
    (List.range (t.length / 2)).foldl
      (fun c k => step16 c (BitVec.ofNat 8 (16 * digitVal (t.getD (2 * k) 0) + digitVal (t.getD (2 * k + 1) 0)))) 0xFFFF) ∧
  (∀ t : Text, crc8 t = t.foldl step8 0x00) ∧
  (∀ (c d : BitVec 16) (a b : Byte), step16 (c ^^^ d) (a ^^^ b) = step16 c a ^^^ step16 d b) ∧
  (∀ c d a b : Byte, step8 (c ^^^ d) (a ^^^ b) = step8 c a ^^^ step8 d b) ∧
  step16 0x0000 0x01 = 0x1021 ∧ step8 0x00 0x01 = 0x99

/-- 41_crc.md R89: C16HEX refuses in the order RANGE, BAD_ARG, NOT_HEX, and otherwise feeds the byte of each character pair. -/
def Obligations.C16hexChecksThenFeedsTheWindow : Prop :=
  encode .c16hex = 0x00000012 ∧
  ∀ s : State,
    (s.wlen.toNat < s.boff.toNat + s.blen.toNat → exec .c16hex s = .next { s with errcode := .range }) ∧
    (s.boff.toNat + s.blen.toNat ≤ s.wlen.toNat → s.blen.toNat % 2 = 1 →
      exec .c16hex s = .next { s with errcode := .badArg }) ∧
    (s.boff.toNat + s.blen.toNat ≤ s.wlen.toNat → s.blen.toNat % 2 = 0 →
      (∃ j, j < s.blen.toNat ∧ isHexDigit (s.wbuf (s.boff.toNat + j)) = false) →
      exec .c16hex s = .next { s with errcode := .notHex }) ∧
    (s.boff.toNat + s.blen.toNat ≤ s.wlen.toNat → s.blen.toNat % 2 = 0 →
      (∀ j, j < s.blen.toNat → isHexDigit (s.wbuf (s.boff.toNat + j)) = true) →
      exec .c16hex s = .next { s with
        acc16 := (List.range (s.blen.toNat / 2)).foldl (fun c k => step16 c (BitVec.ofNat 8
          (16 * digitVal (s.wbuf (s.boff.toNat + 2 * k)) + digitVal (s.wbuf (s.boff.toNat + 2 * k + 1))))) s.acc16 })

/-- 41_crc.md R92: C8TEXT refuses with RANGE, and otherwise feeds every character code. -/
def Obligations.C8textChecksThenFeedsTheWindow : Prop :=
  encode .c8text = 0x0000001A ∧
  ∀ s : State,
    (s.wlen.toNat < s.boff.toNat + s.blen.toNat → exec .c8text s = .next { s with errcode := .range }) ∧
    (s.boff.toNat + s.blen.toNat ≤ s.wlen.toNat →
      exec .c8text s = .next { s with
        acc8 := (List.range s.blen.toNat).foldl (fun c i => step8 c (s.wbuf (s.boff.toNat + i))) s.acc8 })

/-- 41_crc.md R93: splitting a C16HEX window at an even length, or a C8TEXT window anywhere, gives the same CRC. -/
def Obligations.SplitWindowsGiveTheSameCrc : Prop :=
  ∀ (s : State) (off m n : BitVec 16), off.toNat + m.toNat + n.toNat ≤ s.wlen.toNat →
    (m.toNat % 2 = 0 → n.toNat % 2 = 0 →
      (∀ j, j < m.toNat + n.toNat → isHexDigit (s.wbuf (off.toNat + j)) = true) →
      ∃ t u v, exec .c16hex { s with boff := off, blen := m } = .next t ∧
        exec .c16hex { t with boff := off + m, blen := n } = .next u ∧
        exec .c16hex { s with boff := off, blen := m + n } = .next v ∧ u.acc16 = v.acc16) ∧
    ∃ t u v, exec .c8text { s with boff := off, blen := m } = .next t ∧
      exec .c8text { t with boff := off + m, blen := n } = .next u ∧
      exec .c8text { s with boff := off, blen := m + n } = .next v ∧ u.acc8 = v.acc8

/-- 41_crc.md R94: a change confined to one character changes CRC8; a hex digit changed to one of another value changes CRC16. -/
def Obligations.SingleCharacterChangesAreDetected : Prop :=
  (∀ (p q : Text) (x y : Byte), x ≠ y → crc8 (p ++ x :: q) ≠ crc8 (p ++ y :: q)) ∧
  ∀ (p q : Text) (x y : Byte), ishex (p ++ x :: q) = true → isHexDigit y = true → (p ++ x :: q).length % 2 = 0 →
    digitVal x ≠ digitVal y → crc16Hex (p ++ x :: q) ≠ crc16Hex (p ++ y :: q)

/-! ## Address unit -/

/-- 42_address.md R101: `rev21` maps bit `i` to bit `20 - i` and is its own inverse. R100 and R106: AENC completes; AOUT.VALUE is twice the reversal of bits 0 to 20 plus the number in bits 21 to
23, never above 0x400005, and UNRES is cleared. -/
def Obligations.AencEncodesTheAddress : Prop :=
  encode .aenc = 0x00000020 ∧
  (∀ x : BitVec 21, (∀ i, i ≤ 20 → (rev21 x).getLsbD (20 - i) = x.getLsbD i) ∧ rev21 (rev21 x) = x) ∧
  ∀ s : State, ∃ t, exec .aenc s = .next t ∧
    (∃ r : BitVec 21, (∀ i, i ≤ 20 → r.getLsbD (20 - i) = s.ain.getLsbD i) ∧
      t.aout.toNat = 2 * r.toNat + s.ain.toNat / 2 ^ 21) ∧
    t.aout.toNat ≤ 0x400005 ∧ t.unres = false ∧ t = { s with aout := t.aout, unres := false }

/-- 42_address.md R102: AKEY completes; the key nibble is added into AOUT[23:20], and a sum above 15 is reported as UNRES with the
value kept, never wrapped. -/
def Obligations.AkeyAddsOrReportsUnresolved : Prop :=
  (∀ k : Byte, encode (.akey k) = 0x00000021 + (k.setWidth 32 <<< 8)) ∧
  ∀ (s : State) (k : Byte), k.toNat ≤ 15 →
    (s.aout.toNat / 2 ^ 20 + k.toNat ≤ 15 → ∃ t, exec (.akey k) s = .next t ∧
      t.aout.toNat = s.aout.toNat + k.toNat * 2 ^ 20 ∧ t = { s with aout := t.aout, unres := false }) ∧
    (15 < s.aout.toNat / 2 ^ 20 + k.toNat → exec (.akey k) s = .next { s with unres := true })

/-- 42_address.md R104: ASWAP refuses an address of more than 16 bits, and otherwise swaps its two bytes; twice restores it. -/
def Obligations.AswapSwapsTheAddressBytes : Prop :=
  encode .aswap = 0x00000022 ∧
  ∀ s : State,
    (2 ^ 16 ≤ s.ain.toNat → exec .aswap s = .next { s with errcode := .badArg }) ∧
    (s.ain.toNat < 2 ^ 16 → ∃ t, exec .aswap s = .next t ∧
      t.aout.toNat = (s.ain.toNat % 256) * 256 + s.ain.toNat / 256 ∧
      t = { s with aout := t.aout, unres := false } ∧
      ∃ u, exec .aswap { t with ain := t.aout } = .next u ∧ u.aout = s.ain)

/-! ## Frame assembler -/

/-- 43_frame_build.md R110, 60_exceptions.md R166: FBUILD's refusals, in order; each changes ERRCODE alone. -/
def Obligations.FbuildRefusesInOrder : Prop :=
  ∀ s : State,
    (s.txbusy = true → exec .fbuild s = .next { s with errcode := .busy }) ∧
    (s.txbusy = false → s.wlen.toNat < s.boff.toNat + s.blen.toNat →
      exec .fbuild s = .next { s with errcode := .range }) ∧
    (s.txbusy = false → s.boff.toNat + s.blen.toNat ≤ s.wlen.toNat →
      (2 ^ 16 ≤ s.ain.toNat ∨ s.blen.toNat % 2 = 1 ∨ 238 < s.blen.toNat) →
      exec .fbuild s = .next { s with errcode := .badArg }) ∧
    (s.txbusy = false → s.boff.toNat + s.blen.toNat ≤ s.wlen.toNat → s.ain.toNat < 2 ^ 16 → s.blen.toNat % 2 = 0 →
      s.blen.toNat ≤ 238 → (∃ j, j < s.blen.toNat ∧ isHexDigit (s.wbuf (s.boff.toNat + j)) = false) →
      exec .fbuild s = .next { s with errcode := .notHex })

/-- 43_frame_build.md R110, R112, R113: what FBUILD writes when nothing refuses it. The stored bytes are TXBUF[0 .. |f|); every
other byte, and every field but TXLEN, is unchanged. 00_scope.md R9: which codes are hex digits, their values, and the uppercase
digits that `H2` and `H4` write. -/
def Obligations.FbuildWritesTheFrame : Prop :=
  encode .fbuild = 0x00000030 ∧
  (∀ c : Byte, isHexDigit c = true ↔ (0x30 ≤ c.toNat ∧ c.toNat ≤ 0x39) ∨ (0x41 ≤ c.toNat ∧ c.toNat ≤ 0x46) ∨
    (0x61 ≤ c.toNat ∧ c.toNat ≤ 0x66)) ∧
  (∀ n, n < 10 → digitVal (BitVec.ofNat 8 (0x30 + n)) = n) ∧
  (∀ n, n < 6 → digitVal (BitVec.ofNat 8 (0x41 + n)) = 10 + n ∧ digitVal (BitVec.ofNat 8 (0x61 + n)) = 10 + n) ∧
  (∀ v : Byte, (H2 v).length = 2 ∧ hexval (H2 v) = v.toNat ∧
    ∀ c ∈ H2 v, (0x30 ≤ c.toNat ∧ c.toNat ≤ 0x39) ∨ (0x41 ≤ c.toNat ∧ c.toNat ≤ 0x46)) ∧
  (∀ v : BitVec 16, H4 v = H2 (v.extractLsb' 8 8) ++ H2 (v.extractLsb' 0 8)) ∧
  ∀ s : State, fbuildAccepts s →
    let args : Text := (List.range s.blen.toNat).map fun j => s.wbuf (s.boff.toNat + j)
    let data : Text := H2 s.func ++ H2 (s.ain.extractLsb' 0 8) ++ H2 (s.ain.extractLsb' 8 8) ++ args
    let body : Text := H2 (BitVec.ofNat 8 (6 + s.blen.toNat + 10)) ++ data
    let head : Text := (0x24 : Byte) :: body ++ H4 (crc16Hex body)
    let f : Text := head ++ H2 (crc8 head)
    ∃ t, exec .fbuild s = .next t ∧ t.txlen.toNat = s.blen.toNat + 15 ∧ f.length = s.blen.toNat + 15 ∧
      (∀ i, (h : i < f.length) → t.cell (0x100 + i) = f[i]) ∧
      (∀ y, (y < 0x100 ∨ 0x100 + f.length ≤ y) → t.cell y = s.cell y) ∧
      t = { s with mem := t.mem, txlen := t.txlen }

/-- 43_frame_build.md R111 and 44_link.md R123: the layout of every frame FBUILD writes, and that none holds a legal TERM. -/
def Obligations.BuiltFrameHasTheWireLayout : Prop :=
  ∀ s : State, fbuildAccepts s → ∃ t, exec .fbuild s = .next t ∧
    let f := t.txbufText t.txlen.toNat
    let n := f.length
    f[0]? = some 0x24 ∧ hexval (slice f 1 3) = n + 1 ∧
      slice f 3 (n - 6) = H2 s.func ++ H2 s.addrLow ++ H2 s.addrHigh ++ s.window ∧
      ishex (slice f 1 n) = true ∧
      hexval (slice f (n - 6) (n - 2)) = (crc16Hex (slice f 1 (n - 6))).toNat ∧
      hexval (slice f (n - 2) n) = (crc8 (slice f 0 (n - 2))).toNat ∧
      (ConfigLegal s.cfg → s.cfg.term ∉ f)

/-- 45_parse.md R143: every frame FBUILD writes, copied into WBUF with WLEN = |f|, passes every check of FVALID at FOFF = 0. -/
def Obligations.BuiltFrameValidates : Prop :=
  ∀ s t u : State, fbuildAccepts s → exec .fbuild s = .next t →
    u.wlen = t.txlen → (∀ i, i < t.txlen.toNat → u.wbuf i = t.txbuf i) →
    ∃ v, exec .fvalid u = .next v ∧ v.readReg .vres = 0x0000003F

/-- 45_parse.md R143 and 41_crc.md R94: a frame of FBUILD's layout with one data character changed to another character, other
than `$`, is not valid. (A `$` in the data starts an inner frame, R141, so R94's argument does not reach it.) -/
def Obligations.MutatedFrameIsNotValid : Prop :=
  ∀ (code low high : Byte) (args p q : Text) (x y : Byte), ishex args = true → args.length % 2 = 0 → args.length ≤ 238 →
    frameOf (frameData code low high args) = p ++ x :: q → 3 ≤ p.length → 6 ≤ q.length → y ≠ x → y ≠ 0x24 →
    (validateLine (p ++ x :: q)).valid = true ∧ (validateLine (p ++ y :: q)).valid = false

/-- 70_reset_and_hazards.md R192: an echoed FBUILD frame never satisfies MACK, and satisfies an answer search exactly when its
length field, function code and address low byte stand in the signal. -/
def Obligations.EchoedFrameMatchesOnlyAsStated : Prop :=
  ∀ (code low high : Byte) (args : Text), ishex args = true → args.length % 2 = 0 → args.length ≤ 238 →
    (∀ c, find (frameOf (frameData code low high args)) (ackSignal c) = none) ∧
    ∀ (variant : Bool) (lo hi : Byte),
      (∃ p, find (frameOf (frameData code low high args)) (answerSignal variant (H2 lo ++ H2 hi)) = some p) ↔
        args.length = (if variant then 8 else 12) ∧ code = lo ∧ low = hi

/-! ## Link -/

/-- 44_link.md R125: TXSTART starts a transmission when none is in progress, and is refused with BUSY otherwise. TXDONE is not
cleared. -/
def Obligations.TxstartStartsOrIsBusy : Prop :=
  encode .txstart = 0x00000040 ∧
  ∀ s : State,
    (s.txbusy = false → exec .txstart s = .next { s with txpos := 0, txbusy := true }) ∧
    (s.txbusy = true → exec .txstart s = .next { s with errcode := .busy })

/-- 44_link.md R121: TXE's step. -/
def Obligations.TxeStepEmitsCharacterOrTerminator : Prop :=
  ∀ (s : State) (rest : List Event), s.pending = .txe :: rest →
    (s.txbusy = true → s.txpos.toNat < s.txlen.toNat →
      step s = .next { s with
        pending := rest, txLine := s.txLine ++ [s.cell (0x100 + s.txpos.toNat)], txpos := s.txpos + 1 }) ∧
    (s.txbusy = true → s.txlen.toNat ≤ s.txpos.toNat →
      step s = .next { s with
        pending := rest, txLine := s.txLine ++ [s.cfg.term], txbusy := false, txdone := true }) ∧
    (s.txbusy = false → step s = .next { s with pending := rest })

/-- 44_link.md R121, R125: after TXSTART a transmission of TXLEN = n takes n + 1 TXE steps and emits TXBUF[0 .. n) and the
terminator. -/
def Obligations.TransmissionEmitsTheTextAndTerminator : Prop :=
  ∀ (s : State) (rest : List Event), s.txbusy = false →
    s.pending = cmdWrite s.cfg 0x00000040 :: List.replicate (s.txlen.toNat + 1) .txe ++ rest →
    ∃ t, Host.Core.run Sys2Proof.core (s.txlen.toNat + 2) s = .next t ∧
      t.txLine = s.txLine ++ (List.range s.txlen.toNat).map (fun i => s.cell (0x100 + i)) ++ [s.cfg.term] ∧
      t.txbusy = false ∧ t.txdone = true ∧ t.txpos = s.txlen ∧
      t = { s with txLine := t.txLine, txdone := true, txpos := s.txlen, pending := rest, resp := .written }

/-- 44_link.md R121, R126: while a transmission lasts, no step of any agent changes TXBUF or TXLEN, TXPOS never falls, and the
emitted characters stay emitted. -/
def Obligations.TransmittedTextIsLocked : Prop :=
  ∀ s t : State, step s = .next t → s.txbusy = true → t.txbusy = true →
    t.txlen = s.txlen ∧ (∀ i, i < 256 → t.txbuf i = s.txbuf i) ∧
      ((t.txpos = s.txpos ∧ t.txLine = s.txLine) ∨
        (t.txpos.toNat = s.txpos.toNat + 1 ∧ t.txLine = s.txLine ++ [s.txbuf s.txpos.toNat]))

/-- 44_link.md R127, R129: RXE's step on a character `c`. -/
def Obligations.RxeStepFollowsTheReceiveRule : Prop :=
  ∀ (s : State) (c : Byte) (rest : List Event), s.pending = .rxChar c :: rest →
    (s.rxen = false → step s = .next { s with pending := rest }) ∧
    (s.rxen = true → c = s.cfg.term → s.discard = true →
      step s = .next { s with pending := rest, discard := false, part := [] }) ∧
    (s.rxen = true → c = s.cfg.term → s.discard = false → s.part = [] → step s = .next { s with pending := rest }) ∧
    (s.rxen = true → c = s.cfg.term → s.discard = false → s.part ≠ [] → s.rxq.length = s.cfg.rxqDepth →
      step s = .next { s with pending := rest, ovr := true, part := [] }) ∧
    (s.rxen = true → c = s.cfg.term → s.discard = false → s.part ≠ [] → s.rxq.length ≠ s.cfg.rxqDepth →
      step s = .next { s with pending := rest, rxq := s.rxq ++ [s.part], part := [] }) ∧
    (s.rxen = true → c ≠ s.cfg.term → s.discard = true → step s = .next { s with pending := rest }) ∧
    (s.rxen = true → c ≠ s.cfg.term → s.discard = false → s.part.length < 512 →
      step s = .next { s with pending := rest, part := s.part ++ [c] }) ∧
    (s.rxen = true → c ≠ s.cfg.term → s.discard = false → 512 ≤ s.part.length →
      step s = .next { s with pending := rest, long := true, discard := true, part := [] })

/-- 44_link.md R127, R128: a line of 1 to 512 characters whose start is received is queued whole, or dropped with OVR on a full
queue; a line of more than 512 is dropped whole and sets LONG. The next line starts clean, and nothing else changes. -/
def Obligations.CompleteLineIsQueuedOrDroppedWhole : Prop :=
  ∀ (s : State) (line : Text) (rest : List Event), s.rxen = true → s.discard = false → s.part = [] →
    1 ≤ line.length → s.cfg.term ∉ line → s.pending = line.map Event.rxChar ++ .rxChar s.cfg.term :: rest →
    Host.Core.run Sys2Proof.core (line.length + 1) s =
      .next (if 512 < line.length then { s with pending := rest, long := true }
        else if s.rxq.length = s.cfg.rxqDepth then { s with pending := rest, ovr := true }
        else { s with pending := rest, rxq := s.rxq ++ [line] })

/-- 44_link.md R131: RXPOP is refused with EMPTY on an empty queue; otherwise it completes: the oldest line (of at most
`MAX_LINE` characters, as every queued line is) goes to WBUF[0 .. |line|), its length to WLEN, and it leaves the queue. The bytes
stored to are exactly those; every other byte and field is unchanged. -/
def Obligations.RxpopMovesTheOldestLine : Prop :=
  encode .rxpop = 0x00000041 ∧
  ∀ s : State,
    (s.rxq = [] → exec .rxpop s = .next { s with errcode := .empty }) ∧
    ∀ (oldest : Text) (others : List Text), s.rxq = oldest :: others → oldest.length ≤ 512 →
      ∃ t, exec .rxpop s = .next t ∧ t.wlen.toNat = oldest.length ∧
        (∀ i, (h : i < oldest.length) → t.cell (0x200 + i) = oldest[i]) ∧
        (∀ y, (y < 0x200 ∨ 0x200 + oldest.length ≤ y) → t.cell y = s.cell y) ∧
        t = { s with rxq := others, mem := t.mem, wlen := t.wlen }

/-- 44_link.md R133: RXFLUSH completes, discards what was received, and changes nothing else. -/
def Obligations.RxflushDiscardsReceivedData : Prop :=
  encode .rxflush = 0x00000042 ∧
  ∀ s : State, ∃ t, exec .rxflush s = .next t ∧ t = { s with rxq := [], part := [], discard := false } ∧
    t.readReg .rxcnt = 0

/-! ## Parser -/

/-- 45_parse.md R140, R141, R142: FVALID completes and writes VRES alone: 0 when the line holds no `$`, and otherwise the four
checks of the text `f` from the LAST `$`, their AND, and its index. -/
def Obligations.FvalidChecksTheLastFrame : Prop :=
  encode .fvalid = 0x00000031 ∧
  ∀ s : State, ∃ v, exec .fvalid s = .next { s with vres := v } ∧
    ((∀ j, j < s.wlen.toNat → s.wbuf j ≠ 0x24) → v.word = 0) ∧
    ∀ q, q < s.wlen.toNat → s.wbuf q = 0x24 → (∀ j, q < j → j < s.wlen.toNat → s.wbuf j ≠ 0x24) →
      let n := s.wlen.toNat - q
      let f : Text := (List.range n).map fun i => s.wbuf (q + i)
      v.found = true ∧ v.foff.toNat = q ∧ (v.structOk = true ↔ 9 ≤ n) ∧
        (v.lenOk = true ↔ 9 ≤ n ∧ ishex (slice f 1 3) = true ∧ hexval (slice f 1 3) = n + 1) ∧
        (v.crc16Ok = true ↔ 9 ≤ n ∧ (n - 7) % 2 = 0 ∧ ishex (slice f 1 (n - 6)) = true ∧
          ishex (slice f (n - 6) (n - 2)) = true ∧
          (crc16Hex (slice f 1 (n - 6))).toNat = hexval (slice f (n - 6) (n - 2))) ∧
        (v.crc8Ok = true ↔ 9 ≤ n ∧ ishex (slice f (n - 2) n) = true ∧
          (crc8 (slice f 0 (n - 2))).toNat = hexval (slice f (n - 2) n)) ∧
        v.valid = (v.structOk && v.lenOk && v.crc16Ok && v.crc8Ok)

/-- 45_parse.md R145, R146: MACK completes; a miss clears LAST_HIT alone, a hit at the first occurrence sets ACK_SEEN, LAST_HIT and
LAST_OFF. -/
def Obligations.MackFindsTheFirstAckSignal : Prop :=
  encode .mack = 0x00000032 ∧
  ∀ s : State,
    let sig : Text := [0x24, 0x30, 0x35] ++ H2 s.func
    ((∀ p, ¬ signalAt s sig p) → exec .mack s = .next { s with mres := { s.mres with lastHit := false } }) ∧
    ∀ p, signalAt s sig p → (∀ p', p' < p → ¬ signalAt s sig p') →
      ∃ t, exec .mack s = .next t ∧ t.mres.lastOff.toNat = p ∧
        t = { s with mres := { s.mres with ackSeen := true, lastHit := true, lastOff := t.mres.lastOff } }

/-- 45_parse.md R146, R147: MANS refuses an address of more than 16 bits; a miss clears LAST_HIT alone; a hit at the first
occurrence sets ANS_SEEN, LAST_HIT and LAST_OFF, and 12 hex characters after the signal become STATE_A and STATE_B. -/
def Obligations.MansExtractsTheGroupState : Prop :=
  (∀ v : Byte, encode (.mans v) = 0x00000033 + (v.setWidth 32 <<< 8)) ∧
  ∀ (s : State) (v : Byte), v = 0 ∨ v = 1 →
    let sig : Text := [0x24, 0x31, if v = 0 then 0x43 else 0x38] ++ H2 (s.ain.extractLsb' 0 8) ++ H2 (s.ain.extractLsb' 8 8)
    (2 ^ 16 ≤ s.ain.toNat → exec (.mans v) s = .next { s with errcode := .badArg }) ∧
    (s.ain.toNat < 2 ^ 16 → (∀ p, ¬ signalAt s sig p) →
      exec (.mans v) s = .next { s with mres := { s.mres with lastHit := false } }) ∧
    ∀ p, s.ain.toNat < 2 ^ 16 → signalAt s sig p → (∀ p', p' < p → ¬ signalAt s sig p') →
      let good := p + 7 + 12 ≤ s.wlen.toNat ∧ ∀ j, j < 12 → isHexDigit (s.wbuf (p + 7 + j)) = true
      let stateByteAt (k : Nat) : Nat :=
        16 * digitVal (s.wbuf (p + 7 + 2 * k)) + digitVal (s.wbuf (p + 7 + 2 * k + 1))
      ∃ t, exec (.mans v) s = .next t ∧ t.mres.lastOff.toNat = p ∧ (t.mres.stateOk = true ↔ good) ∧
        t = { s with
          mres := { s.mres with
            ansSeen := true, lastHit := true, lastOff := t.mres.lastOff, stateOk := t.mres.stateOk }
          stateA := t.stateA, stateB := t.stateB } ∧
        (good → (∀ k, k < 4 → (t.stateA.extractLsb' (8 * k) 8).toNat = stateByteAt k) ∧
          ∀ k, k < 2 → (t.stateB.extractLsb' (8 * k) 8).toNat = stateByteAt (4 + k)) ∧
        (¬ good → t.stateA = s.stateA ∧ t.stateB = s.stateB)

/-- 45_parse.md R150: CHUNK n, case by case. -/
def Obligations.ChunkReportsItsKind : Prop :=
  (∀ n : Byte, encode (.chunk n) = 0x00000034 + (n.setWidth 32 <<< 8)) ∧
  ∀ (s : State) (n : Byte), 1 ≤ n.toNat →
    (s.wlen.toNat < s.cptr.toNat → exec (.chunk n) s = .next { s with errcode := .range }) ∧
    (s.cptr = s.wlen → exec (.chunk n) s = .next { s with cres := ⟨.ended, s.cptr⟩ }) ∧
    (s.cptr.toNat < s.wlen.toNat → s.wlen.toNat < s.cptr.toNat + n.toNat →
      exec (.chunk n) s = .next { s with cres := ⟨.short, s.cptr⟩ }) ∧
    (s.cptr.toNat + n.toNat ≤ s.wlen.toNat →
      (∀ j, j < n.toNat → s.wbuf (s.cptr.toNat + j) = 0x46 ∨ s.wbuf (s.cptr.toNat + j) = 0x66) →
      exec (.chunk n) s = .next { s with cres := ⟨.terminator, s.cptr⟩ }) ∧
    (s.cptr.toNat + n.toNat ≤ s.wlen.toNat →
      (∃ j, j < n.toNat ∧ s.wbuf (s.cptr.toNat + j) ≠ 0x46 ∧ s.wbuf (s.cptr.toNat + j) ≠ 0x66) →
      ∃ t, exec (.chunk n) s = .next t ∧ t.cptr.toNat = s.cptr.toNat + n.toNat ∧
        t = { s with cres := ⟨.chunk, s.cptr⟩, cptr := t.cptr })

/-- 45_parse.md R150: TERMINATOR, SHORT and END do not advance, so a repeated CHUNK gives the same result; a CHUNK moves CPTR
forward, at most to WLEN. -/
def Obligations.ChunkWalkAdvancesOrStops : Prop :=
  ∀ (s t : State) (n : Byte), 1 ≤ n.toNat → exec (.chunk n) s = .next t → s.cptr.toNat ≤ s.wlen.toNat →
    (t.cres.kind = .chunk → s.cptr.toNat < t.cptr.toNat ∧ t.cptr.toNat ≤ t.wlen.toNat) ∧
    (t.cres.kind ≠ .chunk → t.cptr = s.cptr ∧ exec (.chunk n) t = .next t)

/-- 45_parse.md R153: HEXGET n refuses with RANGE, then NOT_HEX, and otherwise reads the number, most significant digit first. -/
def Obligations.HexgetParsesTheWindow : Prop :=
  (∀ n : Byte, encode (.hexget n) = 0x00000035 + (n.setWidth 32 <<< 8)) ∧
  ∀ (s : State) (n : Byte), 1 ≤ n.toNat → n.toNat ≤ 8 →
    (s.wlen.toNat < s.boff.toNat + n.toNat → exec (.hexget n) s = .next { s with errcode := .range }) ∧
    (s.boff.toNat + n.toNat ≤ s.wlen.toNat →
      (∃ j, j < n.toNat ∧ isHexDigit (s.wbuf (s.boff.toNat + j)) = false) →
      exec (.hexget n) s = .next { s with errcode := .notHex }) ∧
    (s.boff.toNat + n.toNat ≤ s.wlen.toNat →
      (∀ j, j < n.toNat → isHexDigit (s.wbuf (s.boff.toNat + j)) = true) →
      ∃ t, exec (.hexget n) s = .next t ∧
        t.hval.toNat = (List.range n.toNat).foldl (fun v j => 16 * v + digitVal (s.wbuf (s.boff.toNat + j))) 0 ∧
        t = { s with hval := t.hval })

/-! ## Frames and whole-machine rules -/

/-- 60_exceptions.md R165: a command that raises an error changes ERRCODE alone, and a command that changes anything else leaves
ERRCODE unchanged (SRESET, which resets it, apart). -/
def Obligations.ErrorsChangeErrcodeAlone : Prop :=
  ∀ (i : Instr) (s t : State), i ≠ .sreset → exec i s = .next t →
    (t.errcode ≠ s.errcode → t = { s with errcode := t.errcode }) ∧
    (t ≠ { s with errcode := t.errcode } → t.errcode = s.errcode)

/-- 60_exceptions.md R160, R166: which codes each command can raise once its word is legal; none for the commands R166 lists. -/
def Obligations.CommandsRaiseOnlyTheirCodes : Prop :=
  ∀ (i : Instr) (s t : State), exec i s = .next t → t.errcode ≠ s.errcode →
    raisable i t.errcode = true ∨ (i = .sreset ∧ t.errcode = .none)

/-- The frame of the CRC and address commands (41_crc.md, 42_address.md): their result register and ERRCODE, no memory. -/
def Obligations.CrcAndAddressCommandFrames : Prop :=
  ∀ (i : Instr) (s t : State), exec i s = .next t →
    ((i = .c16init ∨ i = .c16hex ∨ ∃ b, i = .c16byte b) → t = { s with acc16 := t.acc16, errcode := t.errcode }) ∧
    ((i = .c8init ∨ i = .c8text ∨ ∃ x, i = .c8byte x) → t = { s with acc8 := t.acc8, errcode := t.errcode }) ∧
    ((i = .aenc ∨ i = .aswap ∨ ∃ k, i = .akey k) →
      t = { s with aout := t.aout, unres := t.unres, errcode := t.errcode }) ∧
    ((i = .c16init ∨ i = .c16hex ∨ (∃ b, i = .c16byte b) ∨ i = .c8init ∨ i = .c8text ∨ (∃ x, i = .c8byte x) ∨
      i = .aenc ∨ i = .aswap ∨ ∃ k, i = .akey k) → ∀ off, t.cell off = s.cell off)

/-- The frame of the parser commands (45_parse.md): their result registers and ERRCODE, no memory. -/
def Obligations.ParserCommandFrames : Prop :=
  ∀ (i : Instr) (s t : State), exec i s = .next t →
    (i = .fvalid → t = { s with vres := t.vres }) ∧
    (i = .mack → t = { s with mres := t.mres } ∧ t.mres.ansSeen = s.mres.ansSeen ∧ t.mres.stateOk = s.mres.stateOk) ∧
    ((∃ v, i = .mans v) → t = { s with mres := t.mres, stateA := t.stateA, stateB := t.stateB, errcode := t.errcode } ∧
      t.mres.ackSeen = s.mres.ackSeen) ∧
    ((∃ n, i = .chunk n) → t = { s with cres := t.cres, cptr := t.cptr, errcode := t.errcode }) ∧
    ((∃ n, i = .hexget n) → t = { s with hval := t.hval, errcode := t.errcode }) ∧
    ((i = .fvalid ∨ i = .mack ∨ (∃ v, i = .mans v) ∨ (∃ n, i = .chunk n) ∨ ∃ n, i = .hexget n) →
      ∀ off, t.cell off = s.cell off)

/-- The frame of FBUILD and the link commands (43_frame_build.md R110, 44_link.md R125, R131, R133). FBUILD stores to the bytes of
the built frame from 0x100, RXPOP to the bytes of the oldest line from 0x200; every other byte reads as before. -/
def Obligations.StoringAndLinkCommandFrames : Prop :=
  ∀ (i : Instr) (s t : State), exec i s = .next t →
    (i = .fbuild → t = { s with mem := t.mem, txlen := t.txlen, errcode := t.errcode } ∧
      ∀ y, (y < 0x100 ∨ 0x100 + s.builtFrame.length ≤ y) → t.cell y = s.cell y) ∧
    (i = .rxpop → t = { s with mem := t.mem, wlen := t.wlen, rxq := t.rxq, errcode := t.errcode } ∧
      ∀ y, (y < 0x200 ∨ 0x200 + (s.rxq.headD []).length ≤ y) → t.cell y = s.cell y) ∧
    (i = .txstart → t = { s with txpos := t.txpos, txbusy := t.txbusy, errcode := t.errcode } ∧
      ∀ off, t.cell off = s.cell off) ∧
    (i = .rxflush → t = { s with rxq := t.rxq, part := t.part, discard := t.discard } ∧
      ∀ off, t.cell off = s.cell off)

/-- 10_state.md R30: in any step of any agent, only AENC, AKEY, ASWAP and the two resets write AOUT. -/
def Obligations.OnlyAddressCommandsWriteAout : Prop :=
  ∀ s t : State, step s = .next t → s.readReg .aout ≠ t.readReg .aout →
    ∃ rest, s.pending = .hardReset :: rest ∨
      ∃ w i, s.pending = cmdWrite s.cfg w :: rest ∧ decode w = .ok i ∧
        (i = .sreset ∨ i = .aenc ∨ i = .aswap ∨ ∃ k, i = .akey k)

/-- 10_state.md R46 and 93_implementation_defined.md I2: a command reads WBUF only within `[0, WLEN)`. From two states that differ
only in other buffer bytes it answers states that differ only there: every byte it stores is the same. -/
def Obligations.CommandsReadOnlyTheValidText : Prop :=
  ∀ (i : Instr) (s t : State) (m : Memory),
    (∀ k, k < s.wlen.toNat → State.wbuf { s with mem := m } k = s.wbuf k) → exec i s = .next t →
    ∃ m', exec i { s with mem := m } = .next { t with mem := m' } ∧
      ∀ y, State.cell { t with mem := m' } y = t.cell y ∨
        (State.cell { t with mem := m' } y = State.cell { s with mem := m } y ∧ t.cell y = s.cell y)
end

