-- ==== Sys2Proof/Laws/State.lean ====
section
/-! SUPPORT. One lemma per field of State for each named update, so that no later proof unfolds a record update. -/

namespace Sys2Proof.Machine

/-! Raising an error writes ERRCODE alone (60_exceptions.md R165). -/

@[simp] theorem raiseErr_cfg (e : ErrCode) (s : State) : (raiseErr e s).cfg = s.cfg := rfl
@[simp] theorem raiseErr_ctrl (e : ErrCode) (s : State) : (raiseErr e s).ctrl = s.ctrl := rfl
@[simp] theorem raiseErr_txbusy (e : ErrCode) (s : State) : (raiseErr e s).txbusy = s.txbusy := rfl
@[simp] theorem raiseErr_txdone (e : ErrCode) (s : State) : (raiseErr e s).txdone = s.txdone := rfl
@[simp] theorem raiseErr_ovr (e : ErrCode) (s : State) : (raiseErr e s).ovr = s.ovr := rfl
@[simp] theorem raiseErr_long (e : ErrCode) (s : State) : (raiseErr e s).long = s.long := rfl
@[simp] theorem raiseErr_errcode (e : ErrCode) (s : State) : (raiseErr e s).errcode = e := rfl
@[simp] theorem raiseErr_acc16 (e : ErrCode) (s : State) : (raiseErr e s).acc16 = s.acc16 := rfl
@[simp] theorem raiseErr_acc8 (e : ErrCode) (s : State) : (raiseErr e s).acc8 = s.acc8 := rfl
@[simp] theorem raiseErr_ain (e : ErrCode) (s : State) : (raiseErr e s).ain = s.ain := rfl
@[simp] theorem raiseErr_aout (e : ErrCode) (s : State) : (raiseErr e s).aout = s.aout := rfl
@[simp] theorem raiseErr_unres (e : ErrCode) (s : State) : (raiseErr e s).unres = s.unres := rfl
@[simp] theorem raiseErr_func (e : ErrCode) (s : State) : (raiseErr e s).func = s.func := rfl
@[simp] theorem raiseErr_boff (e : ErrCode) (s : State) : (raiseErr e s).boff = s.boff := rfl
@[simp] theorem raiseErr_blen (e : ErrCode) (s : State) : (raiseErr e s).blen = s.blen := rfl
@[simp] theorem raiseErr_wlen (e : ErrCode) (s : State) : (raiseErr e s).wlen = s.wlen := rfl
@[simp] theorem raiseErr_txlen (e : ErrCode) (s : State) : (raiseErr e s).txlen = s.txlen := rfl
@[simp] theorem raiseErr_vres (e : ErrCode) (s : State) : (raiseErr e s).vres = s.vres := rfl
@[simp] theorem raiseErr_mres (e : ErrCode) (s : State) : (raiseErr e s).mres = s.mres := rfl
@[simp] theorem raiseErr_stateA (e : ErrCode) (s : State) : (raiseErr e s).stateA = s.stateA := rfl
@[simp] theorem raiseErr_stateB (e : ErrCode) (s : State) : (raiseErr e s).stateB = s.stateB := rfl
@[simp] theorem raiseErr_cptr (e : ErrCode) (s : State) : (raiseErr e s).cptr = s.cptr := rfl
@[simp] theorem raiseErr_cres (e : ErrCode) (s : State) : (raiseErr e s).cres = s.cres := rfl
@[simp] theorem raiseErr_hval (e : ErrCode) (s : State) : (raiseErr e s).hval = s.hval := rfl
@[simp] theorem raiseErr_txpos (e : ErrCode) (s : State) : (raiseErr e s).txpos = s.txpos := rfl
@[simp] theorem raiseErr_mem (e : ErrCode) (s : State) : (raiseErr e s).mem = s.mem := rfl
@[simp] theorem raiseErr_rxq (e : ErrCode) (s : State) : (raiseErr e s).rxq = s.rxq := rfl
@[simp] theorem raiseErr_part (e : ErrCode) (s : State) : (raiseErr e s).part = s.part := rfl
@[simp] theorem raiseErr_discard (e : ErrCode) (s : State) : (raiseErr e s).discard = s.discard := rfl
@[simp] theorem raiseErr_resets (e : ErrCode) (s : State) : (raiseErr e s).resets = s.resets := rfl
@[simp] theorem raiseErr_pending (e : ErrCode) (s : State) : (raiseErr e s).pending = s.pending := rfl
@[simp] theorem raiseErr_txLine (e : ErrCode) (s : State) : (raiseErr e s).txLine = s.txLine := rfl
@[simp] theorem raiseErr_resp (e : ErrCode) (s : State) : (raiseErr e s).resp = s.resp := rfl

/-! Writing a buffer cell changes the memory alone. -/

@[simp] theorem State.setCell_cfg (s : State) (off : Nat) (b : Byte) : (s.setCell off b).cfg = s.cfg := rfl
@[simp] theorem State.setCell_ctrl (s : State) (off : Nat) (b : Byte) : (s.setCell off b).ctrl = s.ctrl := rfl
@[simp] theorem State.setCell_txbusy (s : State) (off : Nat) (b : Byte) : (s.setCell off b).txbusy = s.txbusy := rfl
@[simp] theorem State.setCell_txdone (s : State) (off : Nat) (b : Byte) : (s.setCell off b).txdone = s.txdone := rfl
@[simp] theorem State.setCell_ovr (s : State) (off : Nat) (b : Byte) : (s.setCell off b).ovr = s.ovr := rfl
@[simp] theorem State.setCell_long (s : State) (off : Nat) (b : Byte) : (s.setCell off b).long = s.long := rfl
@[simp] theorem State.setCell_errcode (s : State) (off : Nat) (b : Byte) : (s.setCell off b).errcode = s.errcode := rfl
@[simp] theorem State.setCell_acc16 (s : State) (off : Nat) (b : Byte) : (s.setCell off b).acc16 = s.acc16 := rfl
@[simp] theorem State.setCell_acc8 (s : State) (off : Nat) (b : Byte) : (s.setCell off b).acc8 = s.acc8 := rfl
@[simp] theorem State.setCell_ain (s : State) (off : Nat) (b : Byte) : (s.setCell off b).ain = s.ain := rfl
@[simp] theorem State.setCell_aout (s : State) (off : Nat) (b : Byte) : (s.setCell off b).aout = s.aout := rfl
@[simp] theorem State.setCell_unres (s : State) (off : Nat) (b : Byte) : (s.setCell off b).unres = s.unres := rfl
@[simp] theorem State.setCell_func (s : State) (off : Nat) (b : Byte) : (s.setCell off b).func = s.func := rfl
@[simp] theorem State.setCell_boff (s : State) (off : Nat) (b : Byte) : (s.setCell off b).boff = s.boff := rfl
@[simp] theorem State.setCell_blen (s : State) (off : Nat) (b : Byte) : (s.setCell off b).blen = s.blen := rfl
@[simp] theorem State.setCell_wlen (s : State) (off : Nat) (b : Byte) : (s.setCell off b).wlen = s.wlen := rfl
@[simp] theorem State.setCell_txlen (s : State) (off : Nat) (b : Byte) : (s.setCell off b).txlen = s.txlen := rfl
@[simp] theorem State.setCell_vres (s : State) (off : Nat) (b : Byte) : (s.setCell off b).vres = s.vres := rfl
@[simp] theorem State.setCell_mres (s : State) (off : Nat) (b : Byte) : (s.setCell off b).mres = s.mres := rfl
@[simp] theorem State.setCell_stateA (s : State) (off : Nat) (b : Byte) : (s.setCell off b).stateA = s.stateA := rfl
@[simp] theorem State.setCell_stateB (s : State) (off : Nat) (b : Byte) : (s.setCell off b).stateB = s.stateB := rfl
@[simp] theorem State.setCell_cptr (s : State) (off : Nat) (b : Byte) : (s.setCell off b).cptr = s.cptr := rfl
@[simp] theorem State.setCell_cres (s : State) (off : Nat) (b : Byte) : (s.setCell off b).cres = s.cres := rfl
@[simp] theorem State.setCell_hval (s : State) (off : Nat) (b : Byte) : (s.setCell off b).hval = s.hval := rfl
@[simp] theorem State.setCell_txpos (s : State) (off : Nat) (b : Byte) : (s.setCell off b).txpos = s.txpos := rfl
@[simp] theorem State.setCell_mem (s : State) (off : Nat) (b : Byte) : (s.setCell off b).mem = Memory.insert s.mem off b := rfl
@[simp] theorem State.setCell_rxq (s : State) (off : Nat) (b : Byte) : (s.setCell off b).rxq = s.rxq := rfl
@[simp] theorem State.setCell_part (s : State) (off : Nat) (b : Byte) : (s.setCell off b).part = s.part := rfl
@[simp] theorem State.setCell_discard (s : State) (off : Nat) (b : Byte) : (s.setCell off b).discard = s.discard := rfl
@[simp] theorem State.setCell_resets (s : State) (off : Nat) (b : Byte) : (s.setCell off b).resets = s.resets := rfl
@[simp] theorem State.setCell_pending (s : State) (off : Nat) (b : Byte) : (s.setCell off b).pending = s.pending := rfl
@[simp] theorem State.setCell_txLine (s : State) (off : Nat) (b : Byte) : (s.setCell off b).txLine = s.txLine := rfl
@[simp] theorem State.setCell_resp (s : State) (off : Nat) (b : Byte) : (s.setCell off b).resp = s.resp := rfl

/-! Writing a text to the buffers changes the memory alone. -/

@[simp] theorem State.setCells_cfg (s : State) (off : Nat) (t : Text) : (s.setCells off t).cfg = s.cfg := rfl
@[simp] theorem State.setCells_ctrl (s : State) (off : Nat) (t : Text) : (s.setCells off t).ctrl = s.ctrl := rfl
@[simp] theorem State.setCells_txbusy (s : State) (off : Nat) (t : Text) : (s.setCells off t).txbusy = s.txbusy := rfl
@[simp] theorem State.setCells_txdone (s : State) (off : Nat) (t : Text) : (s.setCells off t).txdone = s.txdone := rfl
@[simp] theorem State.setCells_ovr (s : State) (off : Nat) (t : Text) : (s.setCells off t).ovr = s.ovr := rfl
@[simp] theorem State.setCells_long (s : State) (off : Nat) (t : Text) : (s.setCells off t).long = s.long := rfl
@[simp] theorem State.setCells_errcode (s : State) (off : Nat) (t : Text) : (s.setCells off t).errcode = s.errcode := rfl
@[simp] theorem State.setCells_acc16 (s : State) (off : Nat) (t : Text) : (s.setCells off t).acc16 = s.acc16 := rfl
@[simp] theorem State.setCells_acc8 (s : State) (off : Nat) (t : Text) : (s.setCells off t).acc8 = s.acc8 := rfl
@[simp] theorem State.setCells_ain (s : State) (off : Nat) (t : Text) : (s.setCells off t).ain = s.ain := rfl
@[simp] theorem State.setCells_aout (s : State) (off : Nat) (t : Text) : (s.setCells off t).aout = s.aout := rfl
@[simp] theorem State.setCells_unres (s : State) (off : Nat) (t : Text) : (s.setCells off t).unres = s.unres := rfl
@[simp] theorem State.setCells_func (s : State) (off : Nat) (t : Text) : (s.setCells off t).func = s.func := rfl
@[simp] theorem State.setCells_boff (s : State) (off : Nat) (t : Text) : (s.setCells off t).boff = s.boff := rfl
@[simp] theorem State.setCells_blen (s : State) (off : Nat) (t : Text) : (s.setCells off t).blen = s.blen := rfl
@[simp] theorem State.setCells_wlen (s : State) (off : Nat) (t : Text) : (s.setCells off t).wlen = s.wlen := rfl
@[simp] theorem State.setCells_txlen (s : State) (off : Nat) (t : Text) : (s.setCells off t).txlen = s.txlen := rfl
@[simp] theorem State.setCells_vres (s : State) (off : Nat) (t : Text) : (s.setCells off t).vres = s.vres := rfl
@[simp] theorem State.setCells_mres (s : State) (off : Nat) (t : Text) : (s.setCells off t).mres = s.mres := rfl
@[simp] theorem State.setCells_stateA (s : State) (off : Nat) (t : Text) : (s.setCells off t).stateA = s.stateA := rfl
@[simp] theorem State.setCells_stateB (s : State) (off : Nat) (t : Text) : (s.setCells off t).stateB = s.stateB := rfl
@[simp] theorem State.setCells_cptr (s : State) (off : Nat) (t : Text) : (s.setCells off t).cptr = s.cptr := rfl
@[simp] theorem State.setCells_cres (s : State) (off : Nat) (t : Text) : (s.setCells off t).cres = s.cres := rfl
@[simp] theorem State.setCells_hval (s : State) (off : Nat) (t : Text) : (s.setCells off t).hval = s.hval := rfl
@[simp] theorem State.setCells_txpos (s : State) (off : Nat) (t : Text) : (s.setCells off t).txpos = s.txpos := rfl
@[simp] theorem State.setCells_mem (s : State) (off : Nat) (t : Text) : (s.setCells off t).mem = Memory.insertAll s.mem off t := rfl
@[simp] theorem State.setCells_rxq (s : State) (off : Nat) (t : Text) : (s.setCells off t).rxq = s.rxq := rfl
@[simp] theorem State.setCells_part (s : State) (off : Nat) (t : Text) : (s.setCells off t).part = s.part := rfl
@[simp] theorem State.setCells_discard (s : State) (off : Nat) (t : Text) : (s.setCells off t).discard = s.discard := rfl
@[simp] theorem State.setCells_resets (s : State) (off : Nat) (t : Text) : (s.setCells off t).resets = s.resets := rfl
@[simp] theorem State.setCells_pending (s : State) (off : Nat) (t : Text) : (s.setCells off t).pending = s.pending := rfl
@[simp] theorem State.setCells_txLine (s : State) (off : Nat) (t : Text) : (s.setCells off t).txLine = s.txLine := rfl
@[simp] theorem State.setCells_resp (s : State) (off : Nat) (t : Text) : (s.setCells off t).resp = s.resp := rfl

/-! Emitting a character changes the transmit line alone (44_link.md R121). -/

@[simp] theorem emit_cfg (c : Byte) (s : State) : (emit c s).cfg = s.cfg := rfl
@[simp] theorem emit_ctrl (c : Byte) (s : State) : (emit c s).ctrl = s.ctrl := rfl
@[simp] theorem emit_txbusy (c : Byte) (s : State) : (emit c s).txbusy = s.txbusy := rfl
@[simp] theorem emit_txdone (c : Byte) (s : State) : (emit c s).txdone = s.txdone := rfl
@[simp] theorem emit_ovr (c : Byte) (s : State) : (emit c s).ovr = s.ovr := rfl
@[simp] theorem emit_long (c : Byte) (s : State) : (emit c s).long = s.long := rfl
@[simp] theorem emit_errcode (c : Byte) (s : State) : (emit c s).errcode = s.errcode := rfl
@[simp] theorem emit_acc16 (c : Byte) (s : State) : (emit c s).acc16 = s.acc16 := rfl
@[simp] theorem emit_acc8 (c : Byte) (s : State) : (emit c s).acc8 = s.acc8 := rfl
@[simp] theorem emit_ain (c : Byte) (s : State) : (emit c s).ain = s.ain := rfl
@[simp] theorem emit_aout (c : Byte) (s : State) : (emit c s).aout = s.aout := rfl
@[simp] theorem emit_unres (c : Byte) (s : State) : (emit c s).unres = s.unres := rfl
@[simp] theorem emit_func (c : Byte) (s : State) : (emit c s).func = s.func := rfl
@[simp] theorem emit_boff (c : Byte) (s : State) : (emit c s).boff = s.boff := rfl
@[simp] theorem emit_blen (c : Byte) (s : State) : (emit c s).blen = s.blen := rfl
@[simp] theorem emit_wlen (c : Byte) (s : State) : (emit c s).wlen = s.wlen := rfl
@[simp] theorem emit_txlen (c : Byte) (s : State) : (emit c s).txlen = s.txlen := rfl
@[simp] theorem emit_vres (c : Byte) (s : State) : (emit c s).vres = s.vres := rfl
@[simp] theorem emit_mres (c : Byte) (s : State) : (emit c s).mres = s.mres := rfl
@[simp] theorem emit_stateA (c : Byte) (s : State) : (emit c s).stateA = s.stateA := rfl
@[simp] theorem emit_stateB (c : Byte) (s : State) : (emit c s).stateB = s.stateB := rfl
@[simp] theorem emit_cptr (c : Byte) (s : State) : (emit c s).cptr = s.cptr := rfl
@[simp] theorem emit_cres (c : Byte) (s : State) : (emit c s).cres = s.cres := rfl
@[simp] theorem emit_hval (c : Byte) (s : State) : (emit c s).hval = s.hval := rfl
@[simp] theorem emit_txpos (c : Byte) (s : State) : (emit c s).txpos = s.txpos := rfl
@[simp] theorem emit_mem (c : Byte) (s : State) : (emit c s).mem = s.mem := rfl
@[simp] theorem emit_rxq (c : Byte) (s : State) : (emit c s).rxq = s.rxq := rfl
@[simp] theorem emit_part (c : Byte) (s : State) : (emit c s).part = s.part := rfl
@[simp] theorem emit_discard (c : Byte) (s : State) : (emit c s).discard = s.discard := rfl
@[simp] theorem emit_resets (c : Byte) (s : State) : (emit c s).resets = s.resets := rfl
@[simp] theorem emit_pending (c : Byte) (s : State) : (emit c s).pending = s.pending := rfl
@[simp] theorem emit_txLine (c : Byte) (s : State) : (emit c s).txLine = s.txLine ++ [c] := rfl
@[simp] theorem emit_resp (c : Byte) (s : State) : (emit c s).resp = s.resp := rfl

/-! Answering a host access changes the model's answer field alone. -/

@[simp] theorem respond_cfg (r : Response) (s : State) : (respond r s).cfg = s.cfg := rfl
@[simp] theorem respond_ctrl (r : Response) (s : State) : (respond r s).ctrl = s.ctrl := rfl
@[simp] theorem respond_txbusy (r : Response) (s : State) : (respond r s).txbusy = s.txbusy := rfl
@[simp] theorem respond_txdone (r : Response) (s : State) : (respond r s).txdone = s.txdone := rfl
@[simp] theorem respond_ovr (r : Response) (s : State) : (respond r s).ovr = s.ovr := rfl
@[simp] theorem respond_long (r : Response) (s : State) : (respond r s).long = s.long := rfl
@[simp] theorem respond_errcode (r : Response) (s : State) : (respond r s).errcode = s.errcode := rfl
@[simp] theorem respond_acc16 (r : Response) (s : State) : (respond r s).acc16 = s.acc16 := rfl
@[simp] theorem respond_acc8 (r : Response) (s : State) : (respond r s).acc8 = s.acc8 := rfl
@[simp] theorem respond_ain (r : Response) (s : State) : (respond r s).ain = s.ain := rfl
@[simp] theorem respond_aout (r : Response) (s : State) : (respond r s).aout = s.aout := rfl
@[simp] theorem respond_unres (r : Response) (s : State) : (respond r s).unres = s.unres := rfl
@[simp] theorem respond_func (r : Response) (s : State) : (respond r s).func = s.func := rfl
@[simp] theorem respond_boff (r : Response) (s : State) : (respond r s).boff = s.boff := rfl
@[simp] theorem respond_blen (r : Response) (s : State) : (respond r s).blen = s.blen := rfl
@[simp] theorem respond_wlen (r : Response) (s : State) : (respond r s).wlen = s.wlen := rfl
@[simp] theorem respond_txlen (r : Response) (s : State) : (respond r s).txlen = s.txlen := rfl
@[simp] theorem respond_vres (r : Response) (s : State) : (respond r s).vres = s.vres := rfl
@[simp] theorem respond_mres (r : Response) (s : State) : (respond r s).mres = s.mres := rfl
@[simp] theorem respond_stateA (r : Response) (s : State) : (respond r s).stateA = s.stateA := rfl
@[simp] theorem respond_stateB (r : Response) (s : State) : (respond r s).stateB = s.stateB := rfl
@[simp] theorem respond_cptr (r : Response) (s : State) : (respond r s).cptr = s.cptr := rfl
@[simp] theorem respond_cres (r : Response) (s : State) : (respond r s).cres = s.cres := rfl
@[simp] theorem respond_hval (r : Response) (s : State) : (respond r s).hval = s.hval := rfl
@[simp] theorem respond_txpos (r : Response) (s : State) : (respond r s).txpos = s.txpos := rfl
@[simp] theorem respond_mem (r : Response) (s : State) : (respond r s).mem = s.mem := rfl
@[simp] theorem respond_rxq (r : Response) (s : State) : (respond r s).rxq = s.rxq := rfl
@[simp] theorem respond_part (r : Response) (s : State) : (respond r s).part = s.part := rfl
@[simp] theorem respond_discard (r : Response) (s : State) : (respond r s).discard = s.discard := rfl
@[simp] theorem respond_resets (r : Response) (s : State) : (respond r s).resets = s.resets := rfl
@[simp] theorem respond_pending (r : Response) (s : State) : (respond r s).pending = s.pending := rfl
@[simp] theorem respond_txLine (r : Response) (s : State) : (respond r s).txLine = s.txLine := rfl
@[simp] theorem respond_resp (r : Response) (s : State) : (respond r s).resp = r := rfl

/-! SRESET keeps the parameters, the buffers, what was emitted and the model's own fields, and resets the rest (40_control.md R82). -/

@[simp] theorem softReset_cfg (s : State) : (softReset s).cfg = s.cfg := rfl
@[simp] theorem softReset_ctrl (s : State) : (softReset s).ctrl = State.reset.ctrl := rfl
@[simp] theorem softReset_txbusy (s : State) : (softReset s).txbusy = State.reset.txbusy := rfl
@[simp] theorem softReset_txdone (s : State) : (softReset s).txdone = State.reset.txdone := rfl
@[simp] theorem softReset_ovr (s : State) : (softReset s).ovr = State.reset.ovr := rfl
@[simp] theorem softReset_long (s : State) : (softReset s).long = State.reset.long := rfl
@[simp] theorem softReset_errcode (s : State) : (softReset s).errcode = State.reset.errcode := rfl
@[simp] theorem softReset_acc16 (s : State) : (softReset s).acc16 = State.reset.acc16 := rfl
@[simp] theorem softReset_acc8 (s : State) : (softReset s).acc8 = State.reset.acc8 := rfl
@[simp] theorem softReset_ain (s : State) : (softReset s).ain = State.reset.ain := rfl
@[simp] theorem softReset_aout (s : State) : (softReset s).aout = State.reset.aout := rfl
@[simp] theorem softReset_unres (s : State) : (softReset s).unres = State.reset.unres := rfl
@[simp] theorem softReset_func (s : State) : (softReset s).func = State.reset.func := rfl
@[simp] theorem softReset_boff (s : State) : (softReset s).boff = State.reset.boff := rfl
@[simp] theorem softReset_blen (s : State) : (softReset s).blen = State.reset.blen := rfl
@[simp] theorem softReset_wlen (s : State) : (softReset s).wlen = State.reset.wlen := rfl
@[simp] theorem softReset_txlen (s : State) : (softReset s).txlen = State.reset.txlen := rfl
@[simp] theorem softReset_vres (s : State) : (softReset s).vres = State.reset.vres := rfl
@[simp] theorem softReset_mres (s : State) : (softReset s).mres = State.reset.mres := rfl
@[simp] theorem softReset_stateA (s : State) : (softReset s).stateA = State.reset.stateA := rfl
@[simp] theorem softReset_stateB (s : State) : (softReset s).stateB = State.reset.stateB := rfl
@[simp] theorem softReset_cptr (s : State) : (softReset s).cptr = State.reset.cptr := rfl
@[simp] theorem softReset_cres (s : State) : (softReset s).cres = State.reset.cres := rfl
@[simp] theorem softReset_hval (s : State) : (softReset s).hval = State.reset.hval := rfl
@[simp] theorem softReset_txpos (s : State) : (softReset s).txpos = State.reset.txpos := rfl
@[simp] theorem softReset_mem (s : State) : (softReset s).mem = s.mem := rfl
@[simp] theorem softReset_rxq (s : State) : (softReset s).rxq = State.reset.rxq := rfl
@[simp] theorem softReset_part (s : State) : (softReset s).part = State.reset.part := rfl
@[simp] theorem softReset_discard (s : State) : (softReset s).discard = State.reset.discard := rfl
@[simp] theorem softReset_resets (s : State) : (softReset s).resets = s.resets := rfl
@[simp] theorem softReset_pending (s : State) : (softReset s).pending = s.pending := rfl
@[simp] theorem softReset_txLine (s : State) : (softReset s).txLine = s.txLine := rfl
@[simp] theorem softReset_resp (s : State) : (softReset s).resp = s.resp := rfl

/-! Hardware reset moreover forgets the buffers (10_state.md R48). -/

@[simp] theorem hardReset_cfg (s : State) : (hardReset s).cfg = s.cfg := rfl
@[simp] theorem hardReset_ctrl (s : State) : (hardReset s).ctrl = State.reset.ctrl := rfl
@[simp] theorem hardReset_txbusy (s : State) : (hardReset s).txbusy = State.reset.txbusy := rfl
@[simp] theorem hardReset_txdone (s : State) : (hardReset s).txdone = State.reset.txdone := rfl
@[simp] theorem hardReset_ovr (s : State) : (hardReset s).ovr = State.reset.ovr := rfl
@[simp] theorem hardReset_long (s : State) : (hardReset s).long = State.reset.long := rfl
@[simp] theorem hardReset_errcode (s : State) : (hardReset s).errcode = State.reset.errcode := rfl
@[simp] theorem hardReset_acc16 (s : State) : (hardReset s).acc16 = State.reset.acc16 := rfl
@[simp] theorem hardReset_acc8 (s : State) : (hardReset s).acc8 = State.reset.acc8 := rfl
@[simp] theorem hardReset_ain (s : State) : (hardReset s).ain = State.reset.ain := rfl
@[simp] theorem hardReset_aout (s : State) : (hardReset s).aout = State.reset.aout := rfl
@[simp] theorem hardReset_unres (s : State) : (hardReset s).unres = State.reset.unres := rfl
@[simp] theorem hardReset_func (s : State) : (hardReset s).func = State.reset.func := rfl
@[simp] theorem hardReset_boff (s : State) : (hardReset s).boff = State.reset.boff := rfl
@[simp] theorem hardReset_blen (s : State) : (hardReset s).blen = State.reset.blen := rfl
@[simp] theorem hardReset_wlen (s : State) : (hardReset s).wlen = State.reset.wlen := rfl
@[simp] theorem hardReset_txlen (s : State) : (hardReset s).txlen = State.reset.txlen := rfl
@[simp] theorem hardReset_vres (s : State) : (hardReset s).vres = State.reset.vres := rfl
@[simp] theorem hardReset_mres (s : State) : (hardReset s).mres = State.reset.mres := rfl
@[simp] theorem hardReset_stateA (s : State) : (hardReset s).stateA = State.reset.stateA := rfl
@[simp] theorem hardReset_stateB (s : State) : (hardReset s).stateB = State.reset.stateB := rfl
@[simp] theorem hardReset_cptr (s : State) : (hardReset s).cptr = State.reset.cptr := rfl
@[simp] theorem hardReset_cres (s : State) : (hardReset s).cres = State.reset.cres := rfl
@[simp] theorem hardReset_hval (s : State) : (hardReset s).hval = State.reset.hval := rfl
@[simp] theorem hardReset_txpos (s : State) : (hardReset s).txpos = State.reset.txpos := rfl
@[simp] theorem hardReset_mem (s : State) : (hardReset s).mem = [] := rfl
@[simp] theorem hardReset_rxq (s : State) : (hardReset s).rxq = State.reset.rxq := rfl
@[simp] theorem hardReset_part (s : State) : (hardReset s).part = State.reset.part := rfl
@[simp] theorem hardReset_discard (s : State) : (hardReset s).discard = State.reset.discard := rfl
@[simp] theorem hardReset_resets (s : State) : (hardReset s).resets = s.resets + 1 := rfl
@[simp] theorem hardReset_pending (s : State) : (hardReset s).pending = s.pending := rfl
@[simp] theorem hardReset_txLine (s : State) : (hardReset s).txLine = s.txLine := rfl
@[simp] theorem hardReset_resp (s : State) : (hardReset s).resp = s.resp := rfl

end Sys2Proof.Machine
end

