-- ==== Sys2Proof/Laws/Memory.lean ====
section
/-! SUPPORT. The laws of the buffer memory: read after write, every operation keeps the canonical form, and equal memories are
equal data. -/

namespace Sys2Proof.Machine

/-! ## Read after write -/

theorem Memory.lookup_insert (m : Memory) (x : Nat) (v : Byte) (y : Nat) :
    Memory.lookup (Memory.insert m x v) y = if x = y then some v else Memory.lookup m y := by
  induction m with
  | nil => simp [Memory.insert, Memory.lookup]
  | cons c m ih =>
    obtain ⟨a, b⟩ := c
    by_cases hlt : x < a
    · simp [Memory.insert, hlt, Memory.lookup]
    · by_cases heq : x = a
      · subst heq
        by_cases hxy : x = y <;> simp [Memory.insert, Memory.lookup, hxy]
      · by_cases hay : a = y
        · subst hay
          simp [Memory.insert, hlt, heq, Memory.lookup]
        · simp [Memory.insert, hlt, heq, Memory.lookup, hay, ih]

theorem Memory.lookup_insertAll_outside (t : Text) (m : Memory) (x y : Nat) (h : y < x ∨ x + t.length ≤ y) :
    Memory.lookup (Memory.insertAll m x t) y = Memory.lookup m y := by
  induction t generalizing m x with
  | nil => rfl
  | cons c t ih =>
    simp only [List.length_cons] at h
    rw [Memory.insertAll, ih _ _ (by omega), Memory.lookup_insert, if_neg (by omega)]

theorem Memory.lookup_insertAll_inside (t : Text) (m : Memory) (x i : Nat) (h : i < t.length) :
    Memory.lookup (Memory.insertAll m x t) (x + i) = some t[i] := by
  induction t generalizing m x i with
  | nil => simp at h
  | cons c t ih =>
    cases i with
    | zero =>
      rw [Memory.insertAll, Memory.lookup_insertAll_outside _ _ _ _ (by omega), Memory.lookup_insert]
      simp
    | succ i =>
      rw [Memory.insertAll, show x + (i + 1) = x + 1 + i by omega, ih _ _ _ (by simpa using h)]
      simp

/-- A written cell reads the byte written, every other cell as before. -/
theorem State.cell_setCell (s : State) (off : Nat) (b : Byte) (y : Nat) :
    (s.setCell off b).cell y = if off = y then b else s.cell y := by
  by_cases h : off = y <;> simp [State.cell, Memory.lookup_insert, h]

/-- Outside the bytes of a stored text every cell reads as before. -/
theorem State.cell_setCells_outside (s : State) (off : Nat) (t : Text) (y : Nat) (h : y < off ∨ off + t.length ≤ y) :
    (s.setCells off t).cell y = s.cell y := by
  simp [State.cell, Memory.lookup_insertAll_outside t s.mem off y h]

/-- Inside them, each cell reads its character. -/
theorem State.cell_setCells_inside (s : State) (off : Nat) (t : Text) (i : Nat) (h : i < t.length) :
    (s.setCells off t).cell (off + i) = t[i] := by
  simp [State.cell, Memory.lookup_insertAll_inside t s.mem off i h]

/-! ## The canonical form -/

theorem Memory.wf_cons (a : Nat) (b : Byte) (m : Memory) :
    Memory.wf ((a, b) :: m) = true ↔ (∀ c ∈ m.head?, a < c.1) ∧ Memory.wf m = true := by
  cases m with
  | nil => simp [Memory.wf]
  | cons c m => simp [Memory.wf]

/-- In canonical form the first offset lies below every later one. -/
theorem Memory.wf_head_lt (a : Nat) (b : Byte) (m : Memory) (h : Memory.wf ((a, b) :: m) = true) :
    ∀ c ∈ m, a < c.1 := by
  induction m generalizing a b with
  | nil => simp
  | cons c m ih =>
    obtain ⟨hlt, hwf⟩ := (Memory.wf_cons a b (c :: m)).1 h
    intro d hd
    have hac : a < c.1 := hlt c (by simp)
    rcases List.mem_cons.1 hd with rfl | hd
    · exact hac
    · exact lt_trans hac (ih c.1 c.2 hwf d hd)

theorem Memory.mem_insert {m : Memory} {x : Nat} {v : Byte} {c : Host.Cell} (h : c ∈ Memory.insert m x v) :
    c = (x, v) ∨ c ∈ m := by
  induction m with
  | nil => simpa [Memory.insert] using h
  | cons d m ih =>
    obtain ⟨a, b⟩ := d
    simp only [Memory.insert] at h
    split at h
    · simpa using h
    · split at h
      · rcases List.mem_cons.1 h with h | h
        · exact .inl h
        · exact .inr (List.mem_cons_of_mem _ h)
      · rcases List.mem_cons.1 h with h | h
        · exact .inr (by simp [h])
        · rcases ih h with h | h
          · exact .inl h
          · exact .inr (List.mem_cons_of_mem _ h)

theorem Memory.wf_insert (m : Memory) (x : Nat) (v : Byte) (h : Memory.wf m = true) :
    Memory.wf (Memory.insert m x v) = true := by
  induction m with
  | nil => rfl
  | cons d m ih =>
    obtain ⟨a, b⟩ := d
    obtain ⟨hhead, hm⟩ := (Memory.wf_cons a b m).1 h
    simp only [Memory.insert]
    split
    · rename_i hlt
      exact (Memory.wf_cons x v _).2 ⟨by simpa using hlt, h⟩
    · split
      · rename_i hxa
        subst hxa
        exact (Memory.wf_cons _ v m).2 ⟨hhead, hm⟩
      · rename_i hnlt hne
        refine (Memory.wf_cons a b _).2 ⟨?_, ih hm⟩
        intro c hc
        rcases Memory.mem_insert (List.mem_of_mem_head? hc) with rfl | hc
        · simp only
          omega
        · exact Memory.wf_head_lt a b m h c hc

theorem Memory.wf_insertAll (t : Text) (m : Memory) (x : Nat) (h : Memory.wf m = true) :
    Memory.wf (Memory.insertAll m x t) = true := by
  induction t generalizing m x with
  | nil => exact h
  | cons c t ih => exact ih _ _ (Memory.wf_insert m x c h)

theorem Memory.mem_insertAll {t : Text} {m : Memory} {x : Nat} {c : Host.Cell} (h : c ∈ Memory.insertAll m x t) :
    (x ≤ c.1 ∧ c.1 < x + t.length) ∨ c ∈ m := by
  induction t generalizing m x with
  | nil => exact .inr h
  | cons b t ih =>
    simp only [List.length_cons]
    rcases ih h with h | h
    · exact .inl (by omega)
    · rcases Memory.mem_insert h with rfl | h
      · exact .inl (by simp only; omega)
      · exact .inr h

/-- Two memories in canonical form that read alike everywhere are equal data. -/
theorem Memory.eq_of_lookup (m n : Memory) (hm : Memory.wf m = true) (hn : Memory.wf n = true)
    (h : ∀ y, Memory.lookup m y = Memory.lookup n y) : m = n := by
  have none_of_lt : ∀ (k : Memory) (y : Nat), (∀ c ∈ k, y < c.1) → Memory.lookup k y = none := by
    intro k y hk
    induction k with
    | nil => rfl
    | cons c k ih =>
      have hc : c.1 ≠ y := by have := hk c (by simp); omega
      simpa [Memory.lookup, hc] using ih fun d hd => hk d (by simp [hd])
  induction m generalizing n with
  | nil =>
    cases n with
    | nil => rfl
    | cons c n => have := h c.1; simp [Memory.lookup] at this
  | cons c m ih =>
    cases n with
    | nil => have := h c.1; simp [Memory.lookup] at this
    | cons d n =>
      have hcm := Memory.wf_head_lt c.1 c.2 m hm
      have hdn := Memory.wf_head_lt d.1 d.2 n hn
      have hcd : c.1 = d.1 := by
        rcases Nat.lt_trichotomy c.1 d.1 with hlt | heq | hgt
        · have hc := h c.1
          rw [none_of_lt (d :: n) c.1 (by
            intro e he
            rcases List.mem_cons.1 he with rfl | he
            · exact hlt
            · exact lt_trans hlt (hdn e he))] at hc
          simp [Memory.lookup] at hc
        · exact heq
        · have hd := h d.1
          rw [none_of_lt (c :: m) d.1 (by
            intro e he
            rcases List.mem_cons.1 he with rfl | he
            · exact hgt
            · exact lt_trans hgt (hcm e he))] at hd
          simp [Memory.lookup] at hd
      have hval : c.2 = d.2 := by
        have := h c.1
        simpa [Memory.lookup, hcd] using this
      have htail : m = n := by
        refine ih n ((Memory.wf_cons c.1 c.2 m).1 hm).2 ((Memory.wf_cons d.1 d.2 n).1 hn).2 fun y => ?_
        by_cases hy : c.1 = y
        · rw [none_of_lt m y (by rw [← hy]; exact hcm), none_of_lt n y (by rw [← hy, hcd]; exact hdn)]
        · have := h y
          simpa [Memory.lookup, hy, ← hcd] using this
      rw [htail, Prod.ext hcd hval]

end Sys2Proof.Machine
end

