-- ==== Sys2Proof/Laws/Bus.lean ====
section
/-! SUPPORT. The laws of the host bus: which accesses reach what (20_memory.md R51, R55), and all that a host access can do. -/

namespace Sys2Proof.Machine

/-! ## The map -/

/-- A 32-bit access at a register's offset reaches the register. -/
@[simp] theorem busTarget_reg (cfg : Config) (r : Reg) : busTarget cfg (cfg.base + r.offset) .word = .ok (.reg r) := by
  simp only [busTarget, Nat.not_lt.2 (Nat.le_add_right _ _), if_false, Nat.add_sub_cancel_left]
  cases r <;> rfl

/-- A byte access at 0x100 + i reaches TXBUF byte i. -/
theorem busTarget_txbuf (cfg : Config) (i : Nat) (h : i < txbufSize) :
    busTarget cfg (cfg.base + (txbufBase + i)) .byte = .ok (.txbuf i) := by
  simp only [txbufSize] at h
  have h1 : ¬ txbufBase + i ≤ 0x057 := by simp only [txbufBase]; omega
  have h2 : txbufBase ≤ txbufBase + i ∧ txbufBase + i < txbufBase + txbufSize := by simp only [txbufSize]; omega
  rw [busTarget, if_neg (by omega), Nat.add_sub_cancel_left, offsetTarget, if_neg h1, if_pos h2, if_neg (by simp),
    Nat.add_sub_cancel_left]

/-- A byte access at 0x200 + i reaches WBUF byte i. -/
theorem busTarget_wbuf (cfg : Config) (i : Nat) (h : i < wbufSize) :
    busTarget cfg (cfg.base + (wbufBase + i)) .byte = .ok (.wbuf i) := by
  simp only [wbufSize] at h
  have h1 : ¬ wbufBase + i ≤ 0x057 := by simp only [wbufBase]; omega
  have h2 : ¬ (txbufBase ≤ wbufBase + i ∧ wbufBase + i < txbufBase + txbufSize) := by
    simp only [wbufBase, txbufBase, txbufSize]; omega
  have h3 : wbufBase ≤ wbufBase + i ∧ wbufBase + i < wbufBase + wbufSize := by simp only [wbufSize]; omega
  rw [busTarget, if_neg (by omega), Nat.add_sub_cancel_left, offsetTarget, if_neg h1, if_neg h2, if_pos h3,
    if_neg (by simp), Nat.add_sub_cancel_left]

/-- The accesses at an offset that the spec lets succeed (20_memory.md R55). -/
def Allowed (off : Nat) (n : Width) : Prop :=
  (off ≤ 0x057 ∧ n = .word ∧ off % 4 = 0) ∨ (0x100 ≤ off ∧ off ≤ 0x3FF ∧ n = .byte)

/-- An access that reaches something is one the spec lets succeed, and what it reaches exists. -/
theorem offsetTarget_ok {off : Nat} {n : Width} {t : Target} (h : offsetTarget off n = .ok t) :
    Allowed off n ∧
      ((∃ r, t = .reg r) ∨ (∃ i, i < txbufSize ∧ t = .txbuf i) ∨ ∃ i, i < wbufSize ∧ t = .wbuf i) := by
  have e1 : txbufBase = 0x100 := rfl
  have e2 : txbufSize = 256 := rfl
  have e3 : wbufBase = 0x200 := rfl
  have e4 : wbufSize = 512 := rfl
  rw [offsetTarget] at h
  split at h
  · split at h
    · cases h
    · split at h
      · injection h with h
        exact ⟨.inl ⟨by omega, by simp_all, by simp_all⟩, .inl ⟨_, h.symm⟩⟩
      · cases h
  · split at h
    · split at h
      · cases h
      · injection h with h
        exact ⟨.inr ⟨by omega, by omega, by simp_all⟩, .inr (.inl ⟨_, by omega, h.symm⟩)⟩
    · split at h
      · split at h
        · cases h
        · injection h with h
          exact ⟨.inr ⟨by omega, by omega, by simp_all⟩, .inr (.inr ⟨_, by omega, h.symm⟩)⟩
      · cases h

/-- Every access that the spec lets succeed reaches something. -/
theorem offsetTarget_of_allowed {off : Nat} {n : Width} (h : Allowed off n) : ∃ t, offsetTarget off n = .ok t := by
  rcases h with ⟨hle, rfl, hmod⟩ | ⟨hlo, hhi, rfl⟩
  · have hk : off / 4 < regMap.length := by
      have : regMap.length = 22 := rfl
      omega
    exact ⟨.reg regMap[off / 4], by simp [offsetTarget, hle, hmod, List.getElem?_eq_getElem hk]⟩
  · by_cases hb : off < 0x200
    · refine ⟨.txbuf (off - txbufBase), ?_⟩
      have h1 : ¬ off ≤ 0x057 := by omega
      have h2 : txbufBase ≤ off ∧ off < txbufBase + txbufSize := by simp [txbufBase, txbufSize]; omega
      simp [offsetTarget, h1, h2]
    · refine ⟨.wbuf (off - wbufBase), ?_⟩
      have h1 : ¬ off ≤ 0x057 := by omega
      have h2 : ¬ (txbufBase ≤ off ∧ off < txbufBase + txbufSize) := by simp [txbufBase, txbufSize]; omega
      have h3 : wbufBase ≤ off ∧ off < wbufBase + wbufSize := by simp [wbufBase, wbufSize]; omega
      simp [offsetTarget, h1, h2, h3]

/-- The bus has one fault (60_exceptions.md R168). -/
theorem busTarget_error {cfg : Config} {addr : Nat} {n : Width} {f : Fault} (_h : busTarget cfg addr n = .error f) :
    f = .busError := by
  cases f
  rfl

/-! ## Register writes -/

/-- All that a register write can do (10_state.md R23-R44). -/
theorem writeReg_cases (r : Reg) (v : Word) (s : State) :
    (∃ e, (e = .busy ∨ e = .range) ∧ writeReg r v s = .error e) ∨
    writeReg r v s = .ok s ∨
    (∃ c, writeReg r v s = .ok { s with ctrl := c }) ∨
    (∃ c, writeReg r v s = .ok { s with ctrl := c, part := [], discard := false }) ∨
    (∃ d o l, (d = true → s.txdone = true) ∧ (o = true → s.ovr = true) ∧ (l = true → s.long = true) ∧
      writeReg r v s = .ok { s with txdone := d, ovr := o, long := l }) ∨
    writeReg r v s = .ok { s with errcode := .none } ∨
    (∃ c, writeReg r v s = .ok { s with acc16 := c }) ∨
    (∃ c, writeReg r v s = .ok { s with acc8 := c }) ∨
    (∃ a, writeReg r v s = .ok { s with ain := a }) ∨
    (∃ f, writeReg r v s = .ok { s with func := f }) ∨
    (∃ b, writeReg r v s = .ok { s with boff := b }) ∨
    (∃ b, writeReg r v s = .ok { s with blen := b }) ∨
    (∃ n, n.toNat ≤ wbufSize ∧ writeReg r v s = .ok { s with wlen := n }) ∨
    (∃ n, s.txbusy = false ∧ n.toNat ≤ txbufSize ∧ writeReg r v s = .ok { s with txlen := n }) ∨
    writeReg r v s = .ok { s with mres := MRes.zero } ∨
    (∃ p, writeReg r v s = .ok { s with cptr := p }) := by
  cases r with
  | cmd | aout | vres | stateA | stateB | cres | hval | rxcnt | txpos => exact .inr (.inl rfl)
  | ctrl =>
    simp only [writeReg, writeCtrl]
    split
    · exact .inr (.inr (.inr (.inl ⟨_, rfl⟩)))
    · exact .inr (.inr (.inl ⟨_, rfl⟩))
  | status =>
    refine .inr (.inr (.inr (.inr (.inl ⟨_, _, _, ?_, ?_, ?_, rfl⟩)))) <;> simp_all
  | errcode => exact .inr (.inr (.inr (.inr (.inr (.inl rfl)))))
  | crc16 => exact .inr (.inr (.inr (.inr (.inr (.inr (.inl ⟨_, rfl⟩))))))
  | crc8 => exact .inr (.inr (.inr (.inr (.inr (.inr (.inr (.inl ⟨_, rfl⟩)))))))
  | ain => exact .inr (.inr (.inr (.inr (.inr (.inr (.inr (.inr (.inl ⟨_, rfl⟩))))))))
  | func => exact .inr (.inr (.inr (.inr (.inr (.inr (.inr (.inr (.inr (.inl ⟨_, rfl⟩)))))))))
  | boff => exact .inr (.inr (.inr (.inr (.inr (.inr (.inr (.inr (.inr (.inr (.inl ⟨_, rfl⟩))))))))))
  | blen => exact .inr (.inr (.inr (.inr (.inr (.inr (.inr (.inr (.inr (.inr (.inr (.inl ⟨_, rfl⟩)))))))))))
  | wlen =>
    by_cases hv : (v.extractLsb' 0 16).toNat > wbufSize
    · exact .inl ⟨.range, by simp, by simp only [writeReg, writeWlen, if_pos hv]⟩
    · refine .inr (.inr (.inr (.inr (.inr (.inr (.inr (.inr (.inr (.inr (.inr (.inr (.inl ⟨v.extractLsb' 0 16, ?_, ?_⟩))))))))))))
      · exact Nat.not_lt.1 hv
      · simp only [writeReg, writeWlen, if_neg hv]
  | txlen =>
    cases hb : s.txbusy with
    | true => exact .inl ⟨.busy, by simp, by simp [writeReg, writeTxlen, hb]⟩
    | false =>
      by_cases hv : (v.extractLsb' 0 16).toNat > txbufSize
      · exact .inl ⟨.range, by simp, by simp only [writeReg, writeTxlen, hb, if_pos hv]; rfl⟩
      · refine .inr (.inr (.inr (.inr (.inr (.inr (.inr (.inr (.inr (.inr (.inr (.inr (.inr (.inl
          ⟨v.extractLsb' 0 16, rfl, ?_, ?_⟩)))))))))))))
        · exact Nat.not_lt.1 hv
        · simp only [writeReg, writeTxlen, hb, if_neg hv]; rfl
  | mres => exact .inr (.inr (.inr (.inr (.inr (.inr (.inr (.inr (.inr (.inr (.inr (.inr (.inr (.inr (.inl rfl))))))))))))))
  | cptr => exact .inr (.inr (.inr (.inr (.inr (.inr (.inr (.inr (.inr (.inr (.inr (.inr (.inr (.inr (.inr ⟨_, rfl⟩))))))))))))))

/-! ## Host accesses -/

/-- All that a host access can come to (20_memory.md R52, R55, 60_exceptions.md R168). -/
theorem hostAccess_cases (a : Access) (s : State) :
    (∃ r, hostAccess a s = .done (respond r s)) ∨
    (∃ w, hostAccess a s = .run w (respond .written s)) ∨
    (∃ r v, r ≠ .cmd ∧ hostAccess a s = .done (settled (respond .written s) (writeReg r v (respond .written s)))) ∨
    (∃ i b, i < txbufSize ∧
      hostAccess a s = .done (settled (respond .written s) (writeTxbuf i b (respond .written s)))) ∨
    (∃ i b, i < wbufSize ∧ hostAccess a s = .done (writeWbuf i b (respond .written s))) := by
  cases a with
  | read addr n =>
    cases ht : busTarget s.cfg addr n with
    | error f => exact .inl ⟨.error f, by simp [hostAccess, ht]⟩
    | ok t => exact .inl ⟨.data (s.readTarget t), by simp [hostAccess, ht]⟩
  | write addr n v =>
    cases ht : busTarget s.cfg addr n with
    | error f => exact .inl ⟨.error f, by simp [hostAccess, ht]⟩
    | ok t =>
      have hreach : (∃ r, t = .reg r) ∨ (∃ i, i < txbufSize ∧ t = .txbuf i) ∨ ∃ i, i < wbufSize ∧ t = .wbuf i := by
        simp only [busTarget] at ht
        split at ht
        · cases ht
        · exact (offsetTarget_ok ht).2
      rcases hreach with ⟨r, rfl⟩ | ⟨i, hi, rfl⟩ | ⟨i, hi, rfl⟩
      · by_cases hr : r = .cmd
        · subst hr
          exact .inr (.inl ⟨v, by simp [hostAccess, ht, hostWrite]⟩)
        · refine .inr (.inr (.inl ⟨r, v, hr, ?_⟩))
          simp only [hostAccess, ht, hostWrite]
      · exact .inr (.inr (.inr (.inl ⟨i, v.extractLsb' 0 8, hi, by simp [hostAccess, ht, hostWrite]⟩)))
      · exact .inr (.inr (.inr (.inr ⟨i, v.extractLsb' 0 8, hi, by simp [hostAccess, ht, hostWrite]⟩)))

end Sys2Proof.Machine
end

