-- ==== Sys2Proof/Laws/Text.lean ====
section
/-! SUPPORT. The laws of the string and hex primitives (00_scope.md R8, R9): what `find` and `rfind` answer, and that the hex
the block writes reads back. -/

namespace Sys2Proof.Machine

/-! ## Search -/

/-- `t` stands at index `i` of `s`. -/
def standsAt (t s : Text) (i : Nat) : Prop := t <+: s.drop i

theorem standsAt_zero (t s : Text) : standsAt t s 0 ↔ t.isPrefixOf s = true := by
  simp [standsAt, List.isPrefixOf_iff_prefix]

theorem standsAt_succ (t s : Text) (c : Byte) (i : Nat) : standsAt t (c :: s) (i + 1) ↔ standsAt t s i := by
  simp [standsAt]

/-- `findFrom` answers the least index at which the text stands, counted from `p` (00_scope.md R8). -/
theorem findFrom_eq_some (t s : Text) (p q : Nat) (ht : t ≠ []) :
    findFrom t s p = some q ↔ p ≤ q ∧ standsAt t s (q - p) ∧ ∀ j, j < q - p → ¬ standsAt t s j := by
  induction s generalizing p with
  | nil =>
    have hno : ∀ i, ¬ standsAt t [] i := by
      intro i h
      exact ht (by simpa [standsAt] using h)
    have h0 : t.isPrefixOf [] = false := by
      rw [Bool.eq_false_iff]
      exact fun h => hno 0 ((standsAt_zero t []).2 h)
    simp [findFrom, h0, hno]
  | cons c s ih =>
    by_cases h0 : t.isPrefixOf (c :: s) = true
    · have hz := (standsAt_zero t (c :: s)).2 h0
      simp only [findFrom, h0, if_true, Option.some.injEq]
      constructor
      · rintro rfl
        simpa using hz
      · rintro ⟨hle, -, hmin⟩
        by_contra hne
        exact hmin 0 (by omega) hz
    · have hz : ¬ standsAt t (c :: s) 0 := fun h => h0 ((standsAt_zero t (c :: s)).1 h)
      simp only [findFrom, h0, if_false, ih, Bool.false_eq_true]
      constructor
      · rintro ⟨hle, hat, hmin⟩
        obtain ⟨d, rfl⟩ : ∃ d, q = p + 1 + d := ⟨q - (p + 1), by omega⟩
        have hd : p + 1 + d - (p + 1) = d := by omega
        have hd' : p + 1 + d - p = d + 1 := by omega
        rw [hd] at hat hmin
        rw [hd']
        refine ⟨by omega, (standsAt_succ t s c d).2 hat, ?_⟩
        intro j hj
        cases j with
        | zero => exact hz
        | succ j => rw [standsAt_succ]; exact hmin j (by omega)
      · rintro ⟨hle, hat, hmin⟩
        have hpos : q ≠ p := by
          rintro rfl
          exact hz (by simpa using hat)
        obtain ⟨d, rfl⟩ : ∃ d, q = p + 1 + d := ⟨q - (p + 1), by omega⟩
        have hd : p + 1 + d - (p + 1) = d := by omega
        have hd' : p + 1 + d - p = d + 1 := by omega
        rw [hd'] at hat hmin
        rw [hd]
        refine ⟨by omega, (standsAt_succ t s c d).1 hat, ?_⟩
        intro j hj h
        exact hmin (j + 1) (by omega) ((standsAt_succ t s c j).2 h)

theorem findFrom_eq_none (t s : Text) (p : Nat) (ht : t ≠ []) :
    findFrom t s p = none ↔ ∀ i, ¬ standsAt t s i := by
  constructor
  · intro h i hi
    classical
    obtain ⟨q, hq, hmin⟩ : ∃ q, standsAt t s q ∧ ∀ j, j < q → ¬ standsAt t s j :=
      ⟨Nat.find ⟨i, hi⟩, Nat.find_spec ⟨i, hi⟩, fun j hj => Nat.find_min ⟨i, hi⟩ hj⟩
    have := (findFrom_eq_some t s p (p + q) ht).2 ⟨by omega, by simpa using hq, by simpa using hmin⟩
    simp [h] at this
  · intro h
    cases hf : findFrom t s p with
    | none => rfl
    | some q => exact absurd ((findFrom_eq_some t s p q ht).1 hf).2.1 (h _)

/-- `find` answers the least index (00_scope.md R8). -/
theorem find_eq_some (s t : Text) (q : Nat) (ht : t ≠ []) :
    find s t = some q ↔ standsAt t s q ∧ ∀ j, j < q → ¬ standsAt t s j := by
  simp [find, findFrom_eq_some t s 0 q ht]

theorem find_eq_none (s t : Text) (ht : t ≠ []) : find s t = none ↔ ∀ i, ¬ standsAt t s i :=
  findFrom_eq_none t s 0 ht

/-- A hit lies inside the text. -/
theorem standsAt_length {t s : Text} {i : Nat} (h : standsAt t s i) (ht : t ≠ []) : i + t.length ≤ s.length := by
  have hl := h.length_le
  have hpos : 0 < t.length := List.length_pos_iff.2 ht
  simp only [List.length_drop] at hl
  omega

theorem rfindFrom_eq_none (c : Byte) (s : Text) (p : Nat) : rfindFrom c s p = none ↔ c ∉ s := by
  induction s generalizing p with
  | nil => simp [rfindFrom]
  | cons x s ih =>
    cases hr : rfindFrom c s (p + 1) with
    | none =>
      have hs := (ih (p + 1)).1 hr
      by_cases hx : x = c
      · simp [rfindFrom, hr, hx]
      · simp [rfindFrom, hr, hx, hs, Ne.symm hx]
    | some q =>
      have hs : c ∈ s := by
        by_contra hn
        simp [(ih (p + 1)).2 hn] at hr
      simp [rfindFrom, hr, hs]

/-- `rfindFrom` answers the greatest index that holds the character, counted from `p` (00_scope.md R8). -/
theorem rfindFrom_eq_some (c : Byte) (s : Text) (p q : Nat) :
    rfindFrom c s p = some q ↔ p ≤ q ∧ s[q - p]? = some c ∧ c ∉ s.drop (q - p + 1) := by
  induction s generalizing p q with
  | nil => simp [rfindFrom]
  | cons x s ih =>
    have hstep : ∀ e, rfindFrom c s (p + 1) = some (p + 1 + e) ↔ s[e]? = some c ∧ c ∉ s.drop (e + 1) := by
      intro e
      rw [ih (p + 1) (p + 1 + e), show p + 1 + e - (p + 1) = e by omega]
      exact ⟨fun h => h.2, fun h => ⟨by omega, h⟩⟩
    have hlow : ∀ r, rfindFrom c s (p + 1) = some r → p + 1 ≤ r := fun r h => ((ih (p + 1) r).1 h).1
    by_cases hqp : p < q
    · obtain ⟨e, rfl⟩ : ∃ e, q = p + 1 + e := ⟨q - (p + 1), by omega⟩
      rw [show p + 1 + e - p = e + 1 by omega]
      simp only [List.getElem?_cons_succ, List.drop_succ_cons]
      rw [← hstep e]
      cases hr : rfindFrom c s (p + 1) with
      | none =>
        have hs := (rfindFrom_eq_none c s (p + 1)).1 hr
        by_cases hx : x = c
        · simp [rfindFrom, hr, hx]
          omega
        · simp [rfindFrom, hr, hx]
      | some r => simp [rfindFrom, hr]; omega
    · cases hr : rfindFrom c s (p + 1) with
      | none =>
        have hs := (rfindFrom_eq_none c s (p + 1)).1 hr
        by_cases hx : x = c
        · by_cases hpq : p = q
          · subst hpq; simp [rfindFrom, hr, hx, hs]
          · have : ¬ p ≤ q := by omega
            simp [rfindFrom, hr, hx, hpq, this]
        · simp only [rfindFrom, hr, if_neg hx, reduceCtorEq, false_iff, not_and]
          intro hle hat
          obtain rfl : p = q := by omega
          simp [hx] at hat
      | some r =>
        have hrl := hlow r hr
        have hs : c ∈ s := by
          by_contra hn
          simp [(rfindFrom_eq_none c s (p + 1)).2 hn] at hr
        simp only [rfindFrom, hr, Option.some.injEq]
        constructor
        · intro h; omega
        · rintro ⟨hle, hat, hmin⟩
          obtain rfl : p = q := by omega
          simp at hmin
          exact absurd hs hmin

/-- `rfind` answers the greatest index (00_scope.md R8). -/
theorem rfind_eq_some (s : Text) (c : Byte) (q : Nat) :
    rfind s c = some q ↔ s[q]? = some c ∧ c ∉ s.drop (q + 1) := by
  simp [rfind, rfindFrom_eq_some c s 0 q]

theorem rfind_eq_none (s : Text) (c : Byte) : rfind s c = none ↔ c ∉ s := rfindFrom_eq_none c s 0

/-! ## Hex text -/

theorem digitVal_lt (c : Byte) (h : isHexDigit c = true) : digitVal c < 16 := by
  simp only [isHexDigit, Bool.or_eq_true, Bool.and_eq_true, decide_eq_true_eq] at h
  unfold digitVal
  split
  · omega
  · split <;> omega

theorem isHexDigit_hexChar (n : Nat) (h : n < 16) : isHexDigit (hexChar n) = true := by
  have : ∀ k < 16, isHexDigit (hexChar k) = true := by decide
  exact this n h

theorem digitVal_hexChar (n : Nat) (h : n < 16) : digitVal (hexChar n) = n := by
  have : ∀ k < 16, digitVal (hexChar k) = k := by decide
  exact this n h

/-- A hex digit is not `$` (00_scope.md R9, decision D4). -/
theorem isHexDigit_ne_dollar {c : Byte} (h : isHexDigit c = true) : c ≠ dollar := by
  rintro rfl
  simp [isHexDigit, dollar] at h

theorem ishex_append (s t : Text) : ishex (s ++ t) = (ishex s && ishex t) := by
  simp [ishex]

@[simp] theorem H2_length (v : Byte) : (H2 v).length = 2 := rfl

@[simp] theorem H4_length (v : BitVec 16) : (H4 v).length = 4 := rfl

@[simp] theorem H6_length (v : BitVec 24) : (H6 v).length = 6 := rfl

theorem ishex_H2 (v : Byte) : ishex (H2 v) = true := by
  have := v.isLt
  simp [ishex, H2, isHexDigit_hexChar _ (show v.toNat / 16 < 16 by omega),
    isHexDigit_hexChar _ (show v.toNat % 16 < 16 by omega)]

theorem ishex_H4 (v : BitVec 16) : ishex (H4 v) = true := by
  simp [H4, ishex_append, ishex_H2]

/-- Reading continues digit by digit (00_scope.md R9: most significant digit first). -/
theorem hexval_append_two (s : Text) (a b : Byte) :
    hexval (s ++ [a, b]) = hexval s * 256 + hexval [a, b] := by
  simp [hexval]
  ring

theorem hexval_H2 (v : Byte) : hexval (H2 v) = v.toNat := by
  have := v.isLt
  simp only [hexval, H2, List.foldl_cons, List.foldl_nil, Nat.zero_mul, Nat.zero_add,
    digitVal_hexChar _ (show v.toNat / 16 < 16 by omega), digitVal_hexChar _ (show v.toNat % 16 < 16 by omega)]
  omega

theorem hexval_H4 (v : BitVec 16) : hexval (H4 v) = v.toNat := by
  have hv := v.isLt
  have h1 : H4 v = H2 (v.extractLsb' 8 8) ++ [hexChar ((v.extractLsb' 0 8).toNat / 16), hexChar ((v.extractLsb' 0 8).toNat % 16)] := rfl
  rw [h1, hexval_append_two]
  change hexval (H2 _) * 256 + hexval (H2 _) = _
  rw [hexval_H2, hexval_H2]
  simp only [BitVec.extractLsb'_toNat, Nat.shiftRight_eq_div_pow]
  omega

/-- The bytes of two joined texts, the first of even length, are the bytes of each in turn (41_crc.md R93). -/
theorem bytesOf_append (s t : Text) (h : s.length % 2 = 0) : bytesOf (s ++ t) = bytesOf s ++ bytesOf t := by
  induction s using bytesOf.induct with
  | case1 a b s ih =>
    simp only [List.length_cons] at h
    simp [bytesOf, ih (by omega)]
  | case2 s hs =>
    cases s with
    | nil => simp [bytesOf]
    | cons a s =>
      cases s with
      | nil => simp at h
      | cons b s => exact absurd rfl (hs a b s)

end Sys2Proof.Machine
end

