-- ==== Sys2Proof/Laws/Ops.lean ====
section
/-! SUPPORT. The laws of the shared operations: ending a command, reading buffer text, and the assembled frame. -/

namespace Sys2Proof.Machine

/-! ## Ending a command (60_exceptions.md R165) -/

@[simp] theorem settled_ok (s t : State) : settled s (.ok t) = t := rfl

@[simp] theorem settled_error (s : State) (e : ErrCode) : settled s (.error e) = raiseErr e s := rfl

@[simp] theorem attempt_ok (s t : State) : attempt s (.ok t) = .next t := rfl

@[simp] theorem attempt_error (s : State) (e : ErrCode) : attempt s (.error e) = .next (raiseErr e s) := rfl

/-- All that ending a command can do. -/
theorem attempt_cases {s t : State} {r : Except ErrCode State} (h : attempt s r = .next t) :
    r = .ok t ∨ ∃ e, r = .error e ∧ t = raiseErr e s := by
  cases r with
  | ok u =>
    injection h with h
    exact .inl (congrArg _ h)
  | error e =>
    injection h with h
    exact .inr ⟨e, rfl, h.symm⟩

/-! ## Buffer text -/

@[simp] theorem wbufText_length (s : State) (a n : Nat) : (s.wbufText a n).length = n := by
  simp [State.wbufText]

@[simp] theorem wbufText_getElem (s : State) (a n i : Nat) (h : i < (s.wbufText a n).length) :
    (s.wbufText a n)[i] = s.wbuf (a + i) := by
  simp [State.wbufText]

@[simp] theorem line_length (s : State) : s.line.length = s.wlen.toNat := by
  simp [State.line]

@[simp] theorem window_length (s : State) : s.window.length = s.blen.toNat := by
  simp [State.window, State.windowText]

@[simp] theorem txbufText_length (s : State) (n : Nat) : (s.txbufText n).length = n := by
  simp [State.txbufText]

/-- Two states with the same cells over a range hold the same text there. -/
theorem wbufText_congr {s t : State} {a n : Nat} (h : ∀ i, i < n → s.wbuf (a + i) = t.wbuf (a + i)) :
    s.wbufText a n = t.wbufText a n := by
  simp only [State.wbufText]
  exact List.map_congr_left fun i hi => h i (List.mem_range.1 hi)

/-- A window inside the line is a slice of the line. -/
theorem line_drop_take (s : State) (a n : Nat) (h : a + n ≤ s.wlen.toNat) :
    (s.line.drop a).take n = s.wbufText a n := by
  apply List.ext_getElem
  · simp [State.wbufText]; omega
  · intro i h1 h2
    simp [State.line]

/-! ## The assembled frame (43_frame_build.md R110) -/

@[simp] theorem frameData_length (code low high : Byte) (args : Text) :
    (frameData code low high args).length = args.length + 6 := by
  simp [frameData]; omega

@[simp] theorem frameBody_length (data : Text) : (frameBody data).length = data.length + 2 := by
  simp [frameBody]; omega

@[simp] theorem frameHead_length (data : Text) : (frameHead data).length = data.length + 7 := by
  simp [frameHead]

/-- `|f| = |data| + 9` (43_frame_build.md R111). -/
@[simp] theorem frameOf_length (data : Text) : (frameOf data).length = data.length + 9 := by
  simp [frameOf]

/-- The frame has BLEN + 15 characters (43_frame_build.md R110). -/
@[simp] theorem builtFrame_length (s : State) : s.builtFrame.length = s.blen.toNat + 15 := by
  simp [State.builtFrame]

end Sys2Proof.Machine
end

