-- ==== Sys2Proof/Laws/Exec.lean ====
section
/-! SUPPORT. Said once: all that each command can do. Frames, invariants and whole-machine claims are derived from this and
never unfold the meanings again. -/

namespace Sys2Proof.Machine

/-- Every next state a command can answer, with the guards that later claims need. -/
def Effect (i : Instr) (s t : State) : Prop :=
  match i with
  | .nop => t = s
  | .sreset => t = softReset s
  | .c16init => t = { s with acc16 := crc16Init }
  | .c16byte b => t = { s with acc16 := step16 s.acc16 b }
  | .c16hex =>
    (∃ e, (e = .range ∨ e = .badArg ∨ e = .notHex) ∧ t = raiseErr e s) ∨
      (s.windowIn s.blen.toNat = true ∧ s.blen.toNat % 2 = 0 ∧ ishex s.window = true ∧
        t = { s with acc16 := (bytesOf s.window).foldl step16 s.acc16 })
  | .c8init => t = { s with acc8 := crc8Init }
  | .c8byte x => t = { s with acc8 := step8 s.acc8 x }
  | .c8text =>
    t = raiseErr .range s ∨ (s.windowIn s.blen.toNat = true ∧ t = { s with acc8 := s.window.foldl step8 s.acc8 })
  | .aenc => t = { s with aout := encodeAddress s.ain, unres := false }
  | .akey _ => (∃ v, t = { s with aout := v, unres := false }) ∨ t = { s with unres := true }
  | .aswap =>
    t = raiseErr .badArg s ∨
      (s.addrTop = 0 ∧ t = { s with aout := ((0 : BitVec 8) ++ s.addrLow ++ s.addrHigh : BitVec 24), unres := false })
  | .fbuild =>
    (∃ e, (e = .busy ∨ e = .range ∨ e = .badArg ∨ e = .notHex) ∧ t = raiseErr e s) ∨
      (s.txbusy = false ∧ s.windowIn s.blen.toNat = true ∧ s.addrTop = 0 ∧ s.blen.toNat % 2 = 0 ∧
        s.blen.toNat ≤ maxArgs ∧ ishex s.window = true ∧
        t = { s.setCells txbufBase s.builtFrame with txlen := BitVec.ofNat 16 s.builtFrame.length })
  | .fvalid => t = { s with vres := validateLine s.line }
  | .mack =>
    t = { s with mres := { s.mres with lastHit := false } } ∨
      ∃ p, t = { s with mres := { s.mres with ackSeen := true, lastHit := true, lastOff := p } }
  | .mans _ =>
    t = raiseErr .badArg s ∨ t = { s with mres := { s.mres with lastHit := false } } ∨
      (∃ p a b, t = { s with
        mres := { s.mres with ansSeen := true, lastHit := true, stateOk := true, lastOff := p }, stateA := a, stateB := b }) ∨
      ∃ p, t = { s with mres := { s.mres with ansSeen := true, lastHit := true, stateOk := false, lastOff := p } }
  | .chunk _ =>
    t = raiseErr .range s ∨
      (∃ k, (k = .ended ∨ k = .short ∨ k = .terminator) ∧ t = { s with cres := ⟨k, s.cptr⟩ }) ∨
      ∃ p, t = { s with cres := ⟨.chunk, s.cptr⟩, cptr := p }
  | .hexget _ =>
    (∃ e, (e = .range ∨ e = .notHex) ∧ t = raiseErr e s) ∨ ∃ v, t = { s with hval := v }
  | .txstart =>
    (s.txbusy = true ∧ t = raiseErr .busy s) ∨ (s.txbusy = false ∧ t = { s with txpos := 0, txbusy := true })
  | .rxpop =>
    (s.rxq = [] ∧ t = raiseErr .empty s) ∨
      ∃ line rest, s.rxq = line :: rest ∧
        t = { s.setCells wbufBase line with rxq := rest, wlen := BitVec.ofNat 16 line.length }
  | .rxflush => t = { s with rxq := [], part := [], discard := false }

/-- A command's next state is one of its effects. -/
theorem exec_effect {i : Instr} {s t : State} (h : exec i s = .next t) : Effect i s t := by
  cases i with
  | nop | sreset | c16init | c16byte | c8init | c8byte | aenc | fvalid | rxflush =>
    injection h with h
    exact h.symm
  | c16hex =>
    obtain hr | ⟨e, hr, rfl⟩ := attempt_cases h <;> split at hr <;> try split at hr
    all_goals try split at hr
    all_goals first | (cases hr; done) | injection hr with hr
    · exact .inr ⟨by simp_all, by omega, by simp_all, hr.symm⟩
    all_goals exact .inl ⟨e, by simp [← hr], rfl⟩
  | c8text =>
    obtain hr | ⟨e, hr, rfl⟩ := attempt_cases h <;> split at hr <;> first | (cases hr; done) | injection hr with hr
    · exact .inr ⟨by simp_all, hr.symm⟩
    · exact .inl (by rw [hr])
  | akey k =>
    injection h with h
    subst h
    by_cases hk : (keySum s.aout (nibbleOf k)).toNat ≤ 15
    · exact .inl ⟨_, by simp only [settled_ok, if_pos hk]; rfl⟩
    · exact .inr (by simp only [settled_ok, if_neg hk])
  | aswap =>
    obtain hr | ⟨e, hr, rfl⟩ := attempt_cases h <;> split at hr <;> first | (cases hr; done) | injection hr with hr
    · exact .inr ⟨by simp_all, hr.symm⟩
    · exact .inl (by rw [hr])
  | fbuild =>
    obtain hr | ⟨e, hr, rfl⟩ := attempt_cases h <;> split at hr <;> try split at hr
    all_goals try split at hr
    all_goals try split at hr
    all_goals try split at hr
    all_goals try split at hr
    all_goals first | (cases hr; done) | injection hr with hr
    · exact .inr ⟨by simp_all, by simp_all, by simp_all, by omega, by omega, by simp_all, hr.symm⟩
    all_goals exact .inl ⟨e, by simp [← hr], rfl⟩
  | mack =>
    injection h with h
    subst h
    simp only [settled_ok, Effect]
    split
    · exact .inl rfl
    · exact .inr ⟨_, rfl⟩
  | mans v =>
    obtain hr | ⟨e, hr, rfl⟩ := attempt_cases h <;> split at hr <;> try split at hr
    all_goals first | (cases hr; done) | injection hr with hr
    · exact .inr (.inl hr.symm)
    · subst hr
      simp only [answerHit, Effect]
      split
      · exact .inr (.inr (.inl ⟨_, _, _, rfl⟩))
      · exact .inr (.inr (.inr ⟨_, rfl⟩))
    · exact .inl (by rw [hr])
  | chunk n =>
    obtain hr | ⟨e, hr, rfl⟩ := attempt_cases h <;> split at hr <;> try split at hr
    all_goals try split at hr
    all_goals try split at hr
    all_goals first | (cases hr; done) | injection hr with hr
    · exact .inr (.inl ⟨.ended, by simp, hr.symm⟩)
    · exact .inr (.inl ⟨.short, by simp, hr.symm⟩)
    · exact .inr (.inl ⟨.terminator, by simp, hr.symm⟩)
    · exact .inr (.inr ⟨_, hr.symm⟩)
    · exact .inl (by rw [hr])
  | hexget n =>
    obtain hr | ⟨e, hr, rfl⟩ := attempt_cases h <;> split at hr <;> try split at hr
    all_goals first | (cases hr; done) | injection hr with hr
    · exact .inr ⟨_, hr.symm⟩
    all_goals exact .inl ⟨e, by simp [← hr], rfl⟩
  | txstart =>
    obtain hr | ⟨e, hr, rfl⟩ := attempt_cases h <;> split at hr <;> first | (cases hr; done) | injection hr with hr
    · exact .inr ⟨by simp_all, hr.symm⟩
    · exact .inl ⟨by assumption, by rw [hr]⟩
  | rxpop =>
    obtain hr | ⟨e, hr, rfl⟩ := attempt_cases h <;> split at hr <;> first | (cases hr; done) | injection hr with hr
    · exact .inr ⟨_, _, by assumption, hr.symm⟩
    · exact .inl ⟨by assumption, by rw [hr]⟩

/-- A command's outcome is a next state (60_exceptions.md R165: an error ends the command, not the machine). -/
theorem exec_is_attempt (i : Instr) (s : State) : ∃ r, exec i s = attempt s r := by
  cases i <;> exact ⟨_, rfl⟩

end Sys2Proof.Machine
end

