-- ==== Sys2Proof/Laws/Link.lean ====
section
/-! SUPPORT. All that the two engines' steps can do (44_link.md R121, R127). -/

namespace Sys2Proof.Machine

/-! ## TXE -/

theorem txeStep_idle {s : State} (h : s.txbusy = false) : txeStep s = s := by
  simp [txeStep, h]

theorem txeStep_character {s : State} (hb : s.txbusy = true) (h : s.txpos.toNat < s.txlen.toNat) :
    txeStep s = { s with txLine := s.txLine ++ [s.txbuf s.txpos.toNat], txpos := s.txpos + 1 } := by
  simp [txeStep, hb, h, emit]

theorem txeStep_terminator {s : State} (hb : s.txbusy = true) (h : s.txlen.toNat ≤ s.txpos.toNat) :
    txeStep s = { s with txLine := s.txLine ++ [s.cfg.term], txbusy := false, txdone := true } := by
  simp [txeStep, hb, Nat.not_lt.2 h, emit]

/-- TXE's step is one of these (44_link.md R121). -/
theorem txeStep_cases (s : State) :
    (s.txbusy = false ∧ txeStep s = s) ∨
    (s.txbusy = true ∧ s.txpos.toNat < s.txlen.toNat ∧
      txeStep s = { s with txLine := s.txLine ++ [s.txbuf s.txpos.toNat], txpos := s.txpos + 1 }) ∨
    (s.txbusy = true ∧ s.txlen.toNat ≤ s.txpos.toNat ∧
      txeStep s = { s with txLine := s.txLine ++ [s.cfg.term], txbusy := false, txdone := true }) := by
  by_cases hb : s.txbusy = true
  · by_cases h : s.txpos.toNat < s.txlen.toNat
    · exact .inr (.inl ⟨hb, h, txeStep_character hb h⟩)
    · exact .inr (.inr ⟨hb, by omega, txeStep_terminator hb (by omega)⟩)
  · have hb : s.txbusy = false := by simpa using hb
    exact .inl ⟨hb, txeStep_idle hb⟩

/-! ## RXE -/

/-- RXE's step is one of these (44_link.md R127). -/
theorem rxeStep_cases (c : Byte) (s : State) :
    (s.rxen = false ∧ rxeStep c s = s) ∨
    (s.rxen = true ∧ c = s.cfg.term ∧ s.discard = true ∧ rxeStep c s = { s with discard := false, part := [] }) ∨
    (s.rxen = true ∧ c = s.cfg.term ∧ s.discard = false ∧ s.part = [] ∧ rxeStep c s = s) ∨
    (s.rxen = true ∧ c = s.cfg.term ∧ s.discard = false ∧ s.part ≠ [] ∧ s.rxq.length = s.cfg.rxqDepth ∧
      rxeStep c s = { s with ovr := true, part := [] }) ∨
    (s.rxen = true ∧ c = s.cfg.term ∧ s.discard = false ∧ s.part ≠ [] ∧ s.rxq.length ≠ s.cfg.rxqDepth ∧
      rxeStep c s = { s with rxq := s.rxq ++ [s.part], part := [] }) ∨
    (s.rxen = true ∧ c ≠ s.cfg.term ∧ s.discard = true ∧ rxeStep c s = s) ∨
    (s.rxen = true ∧ c ≠ s.cfg.term ∧ s.discard = false ∧ s.part.length < maxLine ∧
      rxeStep c s = { s with part := s.part ++ [c] }) ∨
    (s.rxen = true ∧ c ≠ s.cfg.term ∧ s.discard = false ∧ maxLine ≤ s.part.length ∧
      rxeStep c s = { s with long := true, discard := true, part := [] }) := by
  cases he : s.rxen with
  | false => exact .inl ⟨rfl, by simp [rxeStep, he]⟩
  | true =>
    by_cases hc : c = s.cfg.term
    · cases hd : s.discard with
      | true => exact .inr (.inl ⟨rfl, hc, rfl, by simp [rxeStep, he, hc, rxeTerminator, hd]⟩)
      | false =>
        by_cases hp : s.part = []
        · refine .inr (.inr (.inl ⟨rfl, hc, rfl, hp, ?_⟩))
          rw [rxeStep, if_neg (by simp [he]), if_pos hc, rxeTerminator, if_neg (by simp [hd]), if_pos (by simp [hp]), ← hp]
        · by_cases hq : s.rxq.length = s.cfg.rxqDepth
          · refine .inr (.inr (.inr (.inl ⟨rfl, hc, rfl, hp, hq, ?_⟩)))
            simp [rxeStep, he, hc, rxeTerminator, hd, hp, hq]
          · refine .inr (.inr (.inr (.inr (.inl ⟨rfl, hc, rfl, hp, hq, ?_⟩))))
            simp [rxeStep, he, hc, rxeTerminator, hd, hp, hq]
    · cases hd : s.discard with
      | true =>
        refine .inr (.inr (.inr (.inr (.inr (.inl ⟨rfl, hc, rfl, ?_⟩)))))
        simp [rxeStep, he, hc, rxeCharacter, hd]
      | false =>
        by_cases hl : s.part.length < maxLine
        · refine .inr (.inr (.inr (.inr (.inr (.inr (.inl ⟨rfl, hc, rfl, hl, ?_⟩))))))
          simp [rxeStep, he, hc, rxeCharacter, hd, hl]
        · refine .inr (.inr (.inr (.inr (.inr (.inr (.inr ⟨rfl, hc, rfl, by omega, ?_⟩))))))
          simp [rxeStep, he, hc, rxeCharacter, hd, hl]

end Sys2Proof.Machine
end

