-- ==== Sys2Proof/Laws/PerInstr.lean ====
section
/-! SUPPORT. Per-command facts about syntax: the fields of each command's encoded word (30_encoding.md R65). -/

namespace Sys2Proof.Laws.EncodedFields

/-- The encoded word of `i` has its operation code in OP, its operand in IMM8 and 0 in RSV (30_encoding.md R65). -/
def Statement (i : Instr) : Prop :=
  opField (encode i) = i.opcode ∧ immField (encode i) = i.imm8 ∧ rsvField (encode i) = 0

/-- The bits of a word built by the format of 30_encoding.md R65. -/
theorem format_bit (op imm : Byte) (j : Nat) :
    BitVec.getLsbD ((0 : BitVec 16) ++ (imm ++ op : BitVec 16) : Word) j =
      if j < 8 then op.getLsbD j else if j < 16 then imm.getLsbD (j - 8) else false := by
  have inner := BitVec.getLsbD_append (x := imm) (y := op) (i := j)
  have outer := BitVec.getLsbD_append (x := (0 : BitVec 16)) (y := (imm ++ op : BitVec 16)) (i := j)
  refine outer.trans ?_
  by_cases h8 : j < 8
  · simpa [h8, show j < 16 by omega] using inner
  · by_cases h16 : j < 16
    · simpa [h8, h16] using inner
    · simp [h8, h16]

/-- Fields of any word built by the format. -/
theorem fields_of_format (op imm : Byte) :
    opField ((0 : BitVec 16) ++ (imm ++ op : BitVec 16)) = op ∧ immField ((0 : BitVec 16) ++ (imm ++ op : BitVec 16)) = imm ∧
      rsvField ((0 : BitVec 16) ++ (imm ++ op : BitVec 16)) = 0 := by
  refine ⟨?_, ?_, ?_⟩ <;> apply BitVec.eq_of_getLsbD_eq <;> intro j hj
  · rw [opField, BitVec.getLsbD_extractLsb', format_bit]
    simp [hj]
  · rw [immField, BitVec.getLsbD_extractLsb', format_bit]
    simp [hj, show 8 + j < 16 by omega]
  · rw [rsvField, BitVec.getLsbD_extractLsb', format_bit]
    simp [show ¬ 16 + j < 8 by omega]

theorem nop : Statement .nop := fields_of_format _ _
theorem sreset : Statement .sreset := fields_of_format _ _
theorem c16init : Statement .c16init := fields_of_format _ _
theorem c16byte (b : Byte) : Statement (.c16byte b) := fields_of_format _ _
theorem c16hex : Statement .c16hex := fields_of_format _ _
theorem c8init : Statement .c8init := fields_of_format _ _
theorem c8byte (x : Byte) : Statement (.c8byte x) := fields_of_format _ _
theorem c8text : Statement .c8text := fields_of_format _ _
theorem aenc : Statement .aenc := fields_of_format _ _
theorem akey (k : Byte) : Statement (.akey k) := fields_of_format _ _
theorem aswap : Statement .aswap := fields_of_format _ _
theorem fbuild : Statement .fbuild := fields_of_format _ _
theorem fvalid : Statement .fvalid := fields_of_format _ _
theorem mack : Statement .mack := fields_of_format _ _
theorem mans (v : Byte) : Statement (.mans v) := fields_of_format _ _
theorem chunk (n : Byte) : Statement (.chunk n) := fields_of_format _ _
theorem hexget (n : Byte) : Statement (.hexget n) := fields_of_format _ _
theorem txstart : Statement .txstart := fields_of_format _ _
theorem rxpop : Statement .rxpop := fields_of_format _ _
theorem rxflush : Statement .rxflush := fields_of_format _ _

end Sys2Proof.Laws.EncodedFields
end

