-- ==== Sys2Proof/Laws/Step.lean ====
section
/-! SUPPORT. All that one step of the machine can do, agent by agent (20_memory.md R57). -/

namespace Sys2Proof.Machine

/-- What a host access does, the command it may write included. -/
def HostEffect (s t : State) : Prop :=
  (∃ r, t = respond r s) ∨
  (∃ w, decode w = .error .reservedBits ∧ t = illegalWord (respond .written s)) ∨
  (∃ w, decode w = .error .unassignedOp ∧ t = illegalWord (respond .written s)) ∨
  (∃ w, decode w = .error .immOutOfClass ∧ t = illegalWord (respond .written s)) ∨
  (∃ w i, decode w = .ok i ∧ Effect i (respond .written s) t) ∨
  (∃ r v, r ≠ .cmd ∧ t = settled (respond .written s) (writeReg r v (respond .written s))) ∨
  (∃ i b, i < txbufSize ∧ t = settled (respond .written s) (writeTxbuf i b (respond .written s))) ∨
  (∃ i b, i < wbufSize ∧ t = writeWbuf i b (respond .written s))

/-- What one event does. -/
def EventEffect (e : Event) (s t : State) : Prop :=
  match e with
  | .host _ => HostEffect s t
  | .rxChar c => t = rxeStep c s
  | .txe => t = txeStep s
  | .hardReset => t = hardReset s

/-- A step is TXE's when no event is pending, and otherwise the first pending event's. -/
theorem step_cases {s t : State} (h : step s = .next t) :
    (s.pending = [] ∧ t = txeStep s) ∨
      ∃ e rest, s.pending = e :: rest ∧ EventEffect e { s with pending := rest } t := by
  cases hp : s.pending with
  | nil =>
    simp only [step, nextAction, hp] at h
    injection h with h
    exact .inl ⟨rfl, h.symm⟩
  | cons e rest =>
    refine .inr ⟨e, rest, rfl, ?_⟩
    cases e with
    | rxChar c | txe | hardReset =>
      simp only [step, nextAction, hp, serve] at h
      injection h with h
      exact h.symm
    | host a =>
      simp only [step, nextAction, hp, serve] at h
      simp only [EventEffect, HostEffect]
      rcases hostAccess_cases a { s with pending := rest } with
        ⟨r, hr⟩ | ⟨w, hw⟩ | ⟨r, v, hne, hr⟩ | ⟨i, b, hi, hr⟩ | ⟨i, b, hi, hr⟩
      · rw [hr] at h
        injection h with h
        exact .inl ⟨r, h.symm⟩
      · rw [hw] at h
        cases hd : decode w with
        | ok i =>
          simp only [hd] at h
          exact .inr (.inr (.inr (.inr (.inl ⟨w, i, hd, exec_effect h⟩))))
        | error e =>
          simp only [hd] at h
          injection h with h
          cases e with
          | reservedBits => exact .inr (.inl ⟨w, hd, h.symm⟩)
          | unassignedOp => exact .inr (.inr (.inl ⟨w, hd, h.symm⟩))
          | immOutOfClass => exact .inr (.inr (.inr (.inl ⟨w, hd, h.symm⟩)))
      · rw [hr] at h
        injection h with h
        exact .inr (.inr (.inr (.inr (.inr (.inl ⟨r, v, hne, h.symm⟩)))))
      · rw [hr] at h
        injection h with h
        exact .inr (.inr (.inr (.inr (.inr (.inr (.inl ⟨i, b, hi, h.symm⟩))))))
      · rw [hr] at h
        injection h with h
        exact .inr (.inr (.inr (.inr (.inr (.inr (.inr ⟨i, b, hi, h.symm⟩))))))

/-- A run of one more step is that step and the rest of the run. -/
theorem run_succ {s t : State} (k : Nat) (h : step s = .next t) :
    Host.Core.run Sys2Proof.core (k + 1) s = Host.Core.run Sys2Proof.core k t := by
  simp only [Host.Core.run]
  rw [show Sys2Proof.core.step s = .next t from h]

end Sys2Proof.Machine
end

