-- ==== Sys2Proof/Tests/Slice0.lean ====
section
/-! SUPPORT. The model's own tests. Expected values come from spec/95_test_vectors.md (named V-…, E…) or from the table of the
rule cited. Each runs one step, on a small state built by the helpers below. After them, the witnesses: for each statement with
hypotheses, concrete states and operands that meet them together. -/

namespace Sys2Proof.Tests

open Sys2Proof.Machine

/-! ## Helpers -/

/-- The next state of an outcome. -/
def after : Host.Outcome State Fault Refusal → Option State
  | .next t => some t
  | .fault _ => none
  | .refused _ => none

/-- The reset state with `t` as the received text. -/
def withText (t : Text) : State :=
  { State.reset with mem := Memory.insertAll [] wbufBase t, wlen := BitVec.ofNat 16 t.length }

/-- The reset state with `t` as the text to transmit. -/
def withTx (t : Text) : State :=
  { State.reset with mem := Memory.insertAll [] txbufBase t, txlen := BitVec.ofNat 16 t.length }

/-- The state after a step in which the host writes the command word `w`. -/
def run (s : State) (w : Word) : Option State := after (step { s with pending := [cmdWrite s.cfg w] })

/-- The state after a step with the event `e`. -/
def event (s : State) (e : Event) : Option State := after (step { s with pending := [e] })

/-- What the host then reads from a register. -/
def reads (s : Option State) (r : Reg) : Option Word := s.map (·.readReg r)

/-- `$1012946CCB61D6` (V-FB-1). -/
def frame1 : Text := [0x24, 0x31, 0x30, 0x31, 0x32, 0x39, 0x34, 0x36, 0x43, 0x43, 0x42, 0x36, 0x31, 0x44, 0x36]

/-- `$0512$1C946C0100FF000000009CB3D8` (V-MA-1, V-FV-9). -/
def ackAnswer : Text := [0x24, 0x30, 0x35, 0x31, 0x32, 0x24, 0x31, 0x43, 0x39, 0x34, 0x36, 0x43, 0x30, 0x31, 0x30, 0x30] ++ [0x46, 0x46, 0x30, 0x30, 0x30, 0x30, 0x30, 0x30, 0x30, 0x30, 0x39, 0x43, 0x42, 0x33, 0x44, 0x38]

/-- `1012946C` (V-C16-14). -/
def hexText : Text := [0x31, 0x30, 0x31, 0x32, 0x39, 0x34, 0x36, 0x43]

/-! ## Decoding: words written out from 30_encoding.md R65 and R68 -/

theorem test_decode_control : decode 0x00000000 = .ok .nop ∧ decode 0x00000001 = .ok .sreset := by decide

theorem test_decode_crc16 :
    decode 0x00000010 = .ok .c16init ∧ decode 0x0000FF11 = .ok (.c16byte 0xFF) ∧ decode 0x00000012 = .ok .c16hex := by
  decide

theorem test_decode_crc8 :
    decode 0x00000018 = .ok .c8init ∧ decode 0x00002419 = .ok (.c8byte 0x24) ∧ decode 0x0000001A = .ok .c8text := by
  decide

theorem test_decode_address :
    decode 0x00000020 = .ok .aenc ∧ decode 0x00000321 = .ok (.akey 3) ∧ decode 0x00000F21 = .ok (.akey 15) ∧
      decode 0x00000022 = .ok .aswap := by
  decide

theorem test_decode_frame :
    decode 0x00000030 = .ok .fbuild ∧ decode 0x00000031 = .ok .fvalid := by
  decide

theorem test_decode_parser :
    decode 0x00000032 = .ok .mack ∧ decode 0x00000033 = .ok (.mans 0) ∧ decode 0x00000133 = .ok (.mans 1) ∧
      decode 0x00000C34 = .ok (.chunk 12) ∧ decode 0x0000FF34 = .ok (.chunk 255) ∧ decode 0x00000835 = .ok (.hexget 8) := by
  decide

theorem test_decode_link :
    decode 0x00000040 = .ok .txstart ∧ decode 0x00000041 = .ok .rxpop ∧ decode 0x00000042 = .ok .rxflush := by
  decide

/-- 30_encoding.md R69: each way a word is illegal. -/
theorem test_decode_illegal :
    decode 0x00010000 = .error .reservedBits ∧ decode 0x80000001 = .error .reservedBits ∧
      decode 0x00000002 = .error .unassignedOp ∧ decode 0x000000FF = .error .unassignedOp ∧
      decode 0x00000110 = .error .immOutOfClass := by
  decide

theorem test_table_words :
    decodeTableWord 32 0x00000321 = some (.akey 3) ∧ decodeTableWord 32 0x00001021 = none ∧
      decodeTableWord 8 0x42 = some .rxflush := by
  decide

/-! ## WellFormed: an ill-formed term for each class of 30_encoding.md R67 that an operand can break -/

theorem test_wf_nibble : (Instr.akey 0x0F).wellFormed = true ∧ (Instr.akey 0x10).wellFormed = false := by decide

theorem test_wf_variant : (Instr.mans 1).wellFormed = true ∧ (Instr.mans 2).wellFormed = false := by decide

theorem test_wf_count :
    (Instr.chunk 255).wellFormed = true ∧ (Instr.chunk 0).wellFormed = false ∧ (Instr.hexget 8).wellFormed = true ∧
      (Instr.hexget 9).wellFormed = false ∧ (Instr.hexget 0).wellFormed = false := by
  decide

theorem test_wf_zero : ImmClass.zero.admits 0 = true ∧ ImmClass.zero.admits 1 = false ∧ ImmClass.byte.admits 0xFF = true := by
  decide

/-! ## Script notation (30_encoding.md R70, R72) -/

theorem test_script_words :
    commandWord "C16BYTE" (some 0xFF) = .ok 0x0000FF11 ∧ commandWord "TXSTART" none = .ok 0x00000040 ∧
      commandWord "AKEY" (some 16) = .error (.immIllegal "AKEY") ∧ commandWord "NOP" (some 0) = .error (.immNotAllowed "NOP") ∧
      commandWord "MANS" none = .error (.immMissing "MANS") ∧ commandWord "nop" none = .error (.unknownMnemonic "nop") := by
  decide

/-! ## Commands -/

/-- V-CT-1. -/
theorem test_nop : reads (run { State.reset with errcode := .badArg } 0x00000000) .errcode = some 4 := by decide

/-- V-CT-10: a register set before SRESET reads its reset value after it; a buffer byte keeps. -/
theorem test_sreset :
    reads (run { withText frame1 with acc16 := 0x1234, ain := 7 } 0x00000001) .crc16 = some 0x0000FFFF ∧
      (run (withText frame1) 0x00000001).map (·.wbuf 0) = some 0x24 := by
  decide +kernel

/-- 41_crc.md R87. -/
theorem test_c16init : reads (run { State.reset with acc16 := 0x1234 } 0x00000010) .crc16 = some 0x0000FFFF := by decide

/-- V-C16-21, V-C16-9. -/
theorem test_c16byte :
    reads (run State.reset 0x0000FF11) .crc16 = some 0x0000FF00 ∧
      reads (run { State.reset with acc16 := 0x1234 } 0x00005611) .crc16 = some 0x00003C40 := by
  decide +kernel

/-- V-C16-14. -/
theorem test_c16hex : reads (run { withText hexText with blen := 8 } 0x00000012) .crc16 = some 0x0000CB61 := by
  decide +kernel

/-- V-C16-25: RANGE before BAD_ARG and NOT_HEX. -/
theorem test_c16hex_range :
    reads (run { withText [0x30, 0x31, 0x32] with boff := 2, blen := 2 } 0x00000012) .errcode = some 3 := by
  decide +kernel

/-- 41_crc.md R90. -/
theorem test_c8init : reads (run { State.reset with acc8 := 0x55 } 0x00000018) .crc8 = some 0 := by decide

/-- V-C8-10. -/
theorem test_c8byte : reads (run { State.reset with acc8 := 0x12 } 0x00003419) .crc8 = some 0x00000078 := by
  decide +kernel

/-- V-C8-16: `$0512`. -/
theorem test_c8text :
    reads (run { withText [0x24, 0x30, 0x35, 0x31, 0x32] with blen := 5 } 0x0000001A) .crc8 = some 0x0000004E := by
  decide +kernel

/-- V-AE-3, V-AE-7. -/
theorem test_aenc :
    reads (run { State.reset with ain := 0xFFFFFF } 0x00000020) .aout = some 0x00400005 ∧
      reads (run { State.reset with ain := 0x123456 } 0x00000020) .aout = some 0x001A8B12 := by
  decide +kernel

/-- V-AK-1, V-AK-5. -/
theorem test_akey :
    reads (run { State.reset with aout := 0x200000, unres := true } 0x00000321) .aout = some 0x00500000 ∧
      reads (run { State.reset with aout := 0x400005 } 0x00000C21) .aout = some 0x80400005 := by
  decide +kernel

/-- V-AK-8: IMM8 = 0x10 is no key nibble. -/
theorem test_akey_illegal :
    reads (run { State.reset with aout := 0x200000 } 0x00001021) .errcode = some 1 ∧
      reads (run { State.reset with aout := 0x200000 } 0x00001021) .aout = some 0x00200000 := by
  decide +kernel

/-- V-AS-1, V-AS-5. -/
theorem test_aswap :
    reads (run { State.reset with ain := 0x006C94 } 0x00000022) .aout = some 0x0000946C ∧
      reads (run { State.reset with ain := 0x010000 } 0x00000022) .errcode = some 4 := by
  decide +kernel

/-- V-FB-1. -/
theorem test_fbuild :
    (run { State.reset with func := 0x12, ain := 0x006C94 } 0x00000030).map (·.txbufText 15) = some frame1 ∧
      reads (run { State.reset with func := 0x12, ain := 0x006C94 } 0x00000030) .txlen = some 15 := by
  decide +kernel

/-- V-FB-12, V-FB-15. -/
theorem test_fbuild_refused :
    reads (run { State.reset with ain := 0x010000 } 0x00000030) .errcode = some 4 ∧
      reads (run { State.reset with txbusy := true, blen := 3 } 0x00000030) .errcode = some 2 := by
  decide +kernel

/-- V-FV-1. -/
theorem test_fvalid : reads (run (withText frame1) 0x00000031) .vres = some 0x0000003F := by decide +kernel

/-- V-FV-9: the frame from the last `$`. -/
theorem test_fvalid_inner : reads (run (withText ackAnswer) 0x00000031) .vres = some 0x0005003F := by decide +kernel

/-- V-MA-1. -/
theorem test_mack : reads (run { withText ackAnswer with func := 0x12 } 0x00000032) .mres = some 0x00000009 := by
  decide +kernel

/-- V-MA-3, from the MRES that V-MA-2 leaves. -/
theorem test_mans :
    reads (run { withText ackAnswer with ain := 0x006C94, mres := { MRes.zero with ackSeen := true } } 0x00000033) .mres =
        some 0x0005000F ∧
      reads (run { withText ackAnswer with ain := 0x006C94 } 0x00000033) .stateA = some 0x00FF0001 := by
  decide +kernel

/-- V-MA-10: which state byte goes where. -/
theorem test_mans_bytes :
    reads (run { withText ([0x24, 0x31, 0x43, 0x46, 0x46, 0x46, 0x46, 0x61, 0x42, 0x63, 0x44, 0x65, 0x46, 0x30, 0x31, 0x32] ++ [0x33, 0x34, 0x35]) with ain := 0x00FFFF } 0x00000033) .stateA = some 0x01EFCDAB ∧
      reads (run { withText ([0x24, 0x31, 0x43, 0x46, 0x46, 0x46, 0x46, 0x61, 0x42, 0x63, 0x44, 0x65, 0x46, 0x30, 0x31, 0x32] ++ [0x33, 0x34, 0x35]) with ain := 0x00FFFF } 0x00000033) .stateB = some 0x00004523 := by
  decide +kernel

/-- V-CH-9, V-CH-8. -/
theorem test_chunk :
    reads (run (withText (List.replicate 11 0x46 ++ [0x45])) 0x00000C34) .cptr = some 12 ∧
      reads (run (withText [0x66, 0x66, 0x66, 0x66, 0x46, 0x46, 0x46, 0x46, 0x66, 0x66, 0x66, 0x66]) 0x00000C34) .cres = some 0x00000002 := by
  decide +kernel

/-- V-CH-7 shortened: CPTR past WLEN. -/
theorem test_chunk_range :
    reads (run { withText [0x41, 0x42, 0x43] with cptr := 4 } 0x00000134) .errcode = some 3 := by
  decide +kernel

/-- V-HG-1, V-HG-3. -/
theorem test_hexget :
    reads (run (withText [0x66, 0x46, 0x61, 0x39]) 0x00000435) .hval = some 0x0000FFA9 ∧
      reads (run (withText [0x66, 0x46, 0x61, 0x39]) 0x00000535) .errcode = some 3 := by
  decide +kernel

/-- V-TX-2: the first TXSTART makes STATUS 2, the second raises BUSY. -/
theorem test_txstart :
    reads (run State.reset 0x00000040) .status = some 0x00000002 ∧
      reads (run { State.reset with txbusy := true } 0x00000040) .status = some 0x0000000A := by
  decide +kernel

/-- V-RX-12. -/
theorem test_rxpop :
    (run { State.reset with rxq := [[0x24, 0x30, 0x35, 0x31, 0x32]] } 0x00000041).map (·.line) =
        some [0x24, 0x30, 0x35, 0x31, 0x32] ∧
      reads (run { State.reset with rxq := [[0x24, 0x30, 0x35, 0x31, 0x32]] } 0x00000041) .status = some 0 := by
  decide +kernel

/-- V-RX-11. -/
theorem test_rxpop_empty : reads (run State.reset 0x00000041) .errcode = some 6 := by decide

/-- V-RX-9. -/
theorem test_rxflush :
    reads (run { State.reset with rxq := [[0x41], [0x43]], part := [0x45, 0x46, 0x47] } 0x00000042) .rxcnt = some 0 := by
  decide +kernel

/-! ## Engines and the host bus -/

/-- V-TX-2: one TXE step on an empty text emits the terminator. -/
theorem test_txe_terminator :
    (event { State.reset with txbusy := true } .txe).map (·.txLine) = some [0x0D] ∧
      reads (event { State.reset with txbusy := true } .txe) .status = some 0x00000004 := by
  decide +kernel

/-- V-RX-1: a line that finds the queue full. -/
theorem test_rxe_overrun :
    reads (event { State.reset with ctrl := 0x11, rxq := [[0x41], [0x42], [0x43], [0x44]], part := [0x45] } (.rxChar 0x0D))
      .status = some 0x000000D1 := by
  decide +kernel

/-- V-RX-4: the terminator ends a dropped long line. -/
theorem test_rxe_long_end :
    reads (event { State.reset with ctrl := 1, discard := true, long := true } (.rxChar 0x0D)) .status = some 0x00000020 ∧
      reads (event { State.reset with ctrl := 1, discard := true, long := true } (.rxChar 0x0D)) .rxcnt = some 0 := by
  decide +kernel

/-- V-CT-6, V-CT-7, V-CT-5. -/
theorem test_register_writes :
    reads (event State.reset (wrEvent Config.default .ctrl 0xFFFFFFFF)) .ctrl = some 0x0000001F ∧
      reads (event State.reset (wrEvent Config.default .ain 0xFFFFFFFF)) .ain = some 0x00FFFFFF ∧
      reads (event State.reset (wrEvent Config.default .wlen 600)) .errcode = some 3 := by
  decide +kernel

/-- V-CT-9. -/
theorem test_bus_errors :
    (event State.reset (.host (.read 0x002 .word))).map (·.resp) = some (.error .busError) ∧
      (event State.reset (.host (.read 0x000 .half))).map (·.resp) = some (.error .busError) ∧
      (event State.reset (.host (.read 0x058 .word))).map (·.resp) = some (.error .busError) ∧
      (event State.reset (.host (.write 0x100 .word 0))).map (·.resp) = some (.error .busError) := by
  decide +kernel

/-- A command word placed by `withFetchWord` runs in the next step. -/
theorem test_fetch_word :
    reads (after (step (State.reset.withFetchWord 32 0x0000FF11))) .crc16 = some 0x0000FF00 := by
  decide +kernel

/-- The canonical form: a write of a listed offset replaces its byte, and offsets rise whatever the order of writes. -/
theorem test_memory_canonical :
    Memory.insert (Memory.insert [] 0x201 1) 0x200 2 = [(0x200, 2), (0x201, 1)] ∧
      Memory.insert [(0x200, 2), (0x201, 1)] 0x201 9 = [(0x200, 2), (0x201, 9)] ∧
      Memory.wf [(0x201, 1), (0x200, 2)] = false := by
  decide

/-! ## Witnesses: states and operands that meet each statement's hypotheses -/

/-- A busy transmitter with one character to go, a line queued, part of another received. -/
def busyState : State :=
  { State.reset with
    ctrl := 0x1F, txbusy := true, txlen := 2, txpos := 1, mem := [(0x100, 0x41), (0x101, 0x42)], rxq := [[0x43]]
    part := [0x44] }

theorem witness_DecodeOfEncodeIsTheCommand :
    (Instr.hexget 8).wellFormed = true ∧ (Instr.chunk 1).wellFormed = true ∧ (Instr.akey 15).wellFormed = true := by
  decide

theorem witness_EncodeOfDecodeIsTheWord : decode 0x0000FF34 = .ok (.chunk 255) := by decide

theorem witness_DecodeFollowsTheOpcodeMap :
    OpcodeRow.mk "AKEY" 0x00000021 0xFFFFF0FF .nibble ∈ opcodeMap ∧
      (OpcodeRow.mk "AKEY" 0x00000021 0xFFFFF0FF .nibble).accepts 0x00000F21 = true := by
  decide

theorem witness_IllegalWordRaisesBadCmdOnly :
    (0x00010000 : Word).extractLsb' 16 16 ≠ 0 ∧ unassignedOp ((0x000000FF : Word).extractLsb' 0 8).toNat = true ∧
      ∃ row ∈ opcodeMap, row.pattern.extractLsb' 0 8 = (0x00001021 : Word).extractLsb' 0 8 ∧
        row.immClass.admits ((0x00001021 : Word).extractLsb' 8 8) = false := by
  decide

theorem witness_StepRunsTheWrittenCommand :
    (State.reset.withFetchWord 32 0x31).pending = cmdWrite State.reset.cfg 0x31 :: [] ∧ decode 0x31 = .ok .fvalid := by
  decide

theorem witness_ConfigLegal : ConfigLegal Config.default := by
  constructor <;> decide

theorem witness_StepKeepsTheInvariant : Inv busyState ∧ ∃ t, step busyState = .next t := by
  refine ⟨?_, ?_⟩
  · constructor
    case cfg_legal => exact witness_ConfigLegal
    case rxq_lines =>
      intro l hl
      obtain rfl : l = [0x43] := by simpa [busyState] using hl
      constructor <;> decide
    all_goals decide
  · exact ⟨_, rfl⟩

theorem witness_HardwareResetRestoresEverything :
    ConfigLegal busyState.cfg ∧ { busyState with pending := [.hardReset] }.pending = [.hardReset] :=
  ⟨witness_ConfigLegal, rfl⟩

theorem witness_SresetKeepsBuffersOnly : ConfigLegal busyState.cfg := witness_ConfigLegal

theorem witness_ReadsAnswerAndChangeNothing :
    { busyState with pending := [rdEvent busyState.cfg .txpos] }.pending = [rdEvent busyState.cfg .txpos] ∧
      { busyState with pending := [.host (.read (0 + 0x054) .word)] }.pending =
        [.host (.read (busyState.cfg.base + 0x054) .word)] ∧
      (Reg.txpos, 0x054) ∈ [(Reg.wlen, 0x02C), (.txpos, 0x054)] ∧
      (0x100 ≤ 0x100 ∧ 0x100 ≤ 0x3FF) ∧ (0x100 ≤ 0x3FF ∧ 0x3FF ≤ 0x3FF) := by
  decide

/-- The boundaries of the map: last register, both buffers' ends; and just outside each. -/
theorem witness_RefusedAccessIsABusErrorOnly :
    accessSucceeds Config.default (.read 0x054 .word) ∧ accessSucceeds Config.default (.write 0x100 .byte 1) ∧
      accessSucceeds Config.default (.read 0x3FF .byte) ∧ ¬ accessSucceeds Config.default (.read 0x058 .word) ∧
      ¬ accessSucceeds Config.default (.read 0x056 .word) ∧ ¬ accessSucceeds Config.default (.read 0x054 .half) ∧
      ¬ accessSucceeds Config.default (.write 0x0FF .byte 1) ∧ ¬ accessSucceeds Config.default (.read 0x400 .byte) ∧
      ¬ accessSucceeds { Config.default with base := 0x1000 } (.read 0xFFC .word) := by
  simp [accessSucceeds, Access.place, Config.default]

theorem witness_BufferByteWriteReadsBack :
    (0x100 ≤ 0x1FF ∧ 0x1FF < 0x200 ∧ State.reset.txbusy = false) ∧ (0x200 ≤ 0x200 ∧ 0x200 < 0x400) ∧
      { State.reset with pending := [.host (.write (0 + 0x200) .byte 7)] }.pending =
        [.host (.write (State.reset.cfg.base + 0x200) .byte 7)] := by
  decide

theorem witness_BusyTransmitterRefusesChanges :
    busyState.txbusy = true ∧ 255 < 256 ∧
      { busyState with pending := [.host (.write 0x1FF .byte 7)] }.pending =
        [.host (.write (busyState.cfg.base + (0x100 + 255)) .byte 7)] ∧
      (run busyState 0x00000001).map (·.txbusy) = some false := by
  decide

theorem witness_PlainRegistersReadBackMasked :
    { busyState with pending := [wrEvent busyState.cfg .ain 0xFFFFFFFF] }.pending = [wrEvent busyState.cfg .ain 0xFFFFFFFF] := by
  decide

theorem witness_CtrlWriteAndReceiverDisable :
    (busyState.rxen = true ∧ (0x1E : Word).getLsbD 0 = false) ∧ ¬ (State.reset.rxen = true ∧ (0x1E : Word).getLsbD 0 = false) := by
  decide

theorem witness_StatusBitsAndWriteOneToClear :
    { busyState with pending := [wrEvent busyState.cfg .status 0x34] }.pending = [wrEvent busyState.cfg .status 0x34] := by
  decide

/-- One step that sets each sticky bit, and one of each that clears one. -/
theorem witness_StickyStatusBitsHaveOnlyTheirCauses :
    (event { State.reset with txbusy := true } .txe).map (·.txdone) = some true ∧
      (event { State.reset with ctrl := 1, rxq := [[1], [1], [1], [1]], part := [1] } (.rxChar 0x0D)).map (·.ovr) = some true ∧
      (event { State.reset with ctrl := 1, part := List.replicate 512 0x58 } (.rxChar 0x58)).map (·.long) = some true ∧
      (event { State.reset with txdone := true } (wrEvent Config.default .status 4)).map (·.txdone) = some false ∧
      (run { State.reset with ovr := true } 0x00000001).map (·.ovr) = some false ∧
      (event { State.reset with long := true } .hardReset).map (·.long) = some false := by
  decide +kernel

theorem witness_ClearingAndReadOnlyWrites :
    Reg.txpos ∈ [Reg.aout, .vres, .stateA, .stateB, .cres, .hval, .rxcnt, .txpos] ∧
      { busyState with pending := [wrEvent busyState.cfg .txpos 9] }.pending = [wrEvent busyState.cfg .txpos 9] := by
  decide

theorem witness_LengthWritesAreChecked :
    512 < ((513 : Word) &&& 0x0000FFFF).toNat ∧ ((0xFFFF0200 : Word) &&& 0x0000FFFF).toNat ≤ 512 ∧
      256 < ((257 : Word) &&& 0x0000FFFF).toNat ∧ ((256 : Word) &&& 0x0000FFFF).toNat ≤ 256 ∧ State.reset.txbusy = false := by
  decide

/-- Every error code and kind, at the ends of their lists. -/
theorem witness_ResultWordsShowTheirFields :
    (ErrCode.empty, (6 : Word)) ∈ [(ErrCode.none, (0 : Word)), (.empty, 6)] ∧ State.reset.errcode = .none ∧
      { State.reset with errcode := .empty }.errcode = .empty ∧
      (ChunkKind.ended, (4 : BitVec 3)) ∈ [(ChunkKind.none, (0 : BitVec 3)), (.ended, 4)] ∧ State.reset.cres.kind = .none ∧
      { State.reset with cres := ⟨.ended, 7⟩ }.cres.kind = .ended := by
  decide

theorem witness_CrcStepsAreCarryLess : hexText.length % 2 = 0 := by decide

/-- The window bounds of C16HEX, C8TEXT and FBUILD: just past WLEN, odd, not hex, and good. -/
theorem witness_C16hexChecksThenFeedsTheWindow :
    (let s := { withText hexText with boff := 1, blen := 8 }; s.wlen.toNat < s.boff.toNat + s.blen.toNat) ∧
      (let s := { withText hexText with blen := 7 }; s.boff.toNat + s.blen.toNat ≤ s.wlen.toNat ∧ s.blen.toNat % 2 = 1) ∧
      (let s := { withText [0x30, 0x47] with blen := 2 };
        s.boff.toNat + s.blen.toNat ≤ s.wlen.toNat ∧ s.blen.toNat % 2 = 0 ∧
          ∃ j, j < s.blen.toNat ∧ isHexDigit (s.wbuf (s.boff.toNat + j)) = false) ∧
      (let s := { withText hexText with blen := 8 };
        s.boff.toNat + s.blen.toNat ≤ s.wlen.toNat ∧ s.blen.toNat % 2 = 0 ∧
          ∀ j, j < s.blen.toNat → isHexDigit (s.wbuf (s.boff.toNat + j)) = true) := by
  refine ⟨by decide, by decide, ⟨by decide, by decide, 1, by decide, by decide⟩, by decide +kernel⟩

theorem witness_C8textChecksThenFeedsTheWindow :
    (let s := { withText hexText with boff := 9 }; s.wlen.toNat < s.boff.toNat + s.blen.toNat) ∧
      (let s := { withText hexText with boff := 8 }; s.boff.toNat + s.blen.toNat ≤ s.wlen.toNat) := by
  decide

theorem witness_SplitWindowsGiveTheSameCrc :
    let s := withText hexText
    (1 : BitVec 16).toNat + (4 : BitVec 16).toNat + (2 : BitVec 16).toNat ≤ s.wlen.toNat ∧ (4 : BitVec 16).toNat % 2 = 0 ∧
      (2 : BitVec 16).toNat % 2 = 0 ∧ ∀ j, j < 4 + 2 → isHexDigit (s.wbuf (1 + j)) = true := by
  decide +kernel

theorem witness_SingleCharacterChangesAreDetected :
    (0x41 : Byte) ≠ 0x61 ∧ ishex ([0x30] ++ 0x41 :: [0x31, 0x32]) = true ∧ isHexDigit 0x42 = true ∧
      ([0x30] ++ 0x41 :: [0x31, 0x32] : Text).length % 2 = 0 ∧ digitVal 0x41 ≠ digitVal 0x42 := by
  decide

theorem witness_AkeyAddsOrReportsUnresolved :
    (15 : Byte).toNat ≤ 15 ∧ (0x0FFFFF : BitVec 24).toNat / 2 ^ 20 + (15 : Byte).toNat ≤ 15 ∧
      15 < (0xF00000 : BitVec 24).toNat / 2 ^ 20 + (1 : Byte).toNat := by
  decide

theorem witness_AswapSwapsTheAddressBytes :
    2 ^ 16 ≤ (0x010000 : BitVec 24).toNat ∧ (0x00FFFF : BitVec 24).toNat < 2 ^ 16 := by
  decide

theorem witness_FbuildRefusesInOrder :
    busyState.txbusy = true ∧
      (let s := { State.reset with blen := 1 }; s.txbusy = false ∧ s.wlen.toNat < s.boff.toNat + s.blen.toNat) ∧
      (let s := { State.reset with wlen := 240, blen := 240 };
        s.txbusy = false ∧ s.boff.toNat + s.blen.toNat ≤ s.wlen.toNat ∧
          (2 ^ 16 ≤ s.ain.toNat ∨ s.blen.toNat % 2 = 1 ∨ 238 < s.blen.toNat)) ∧
      (let s := { withText [0x30, 0x47] with blen := 2 };
        s.txbusy = false ∧ s.boff.toNat + s.blen.toNat ≤ s.wlen.toNat ∧ s.ain.toNat < 2 ^ 16 ∧ s.blen.toNat % 2 = 0 ∧
          s.blen.toNat ≤ 238 ∧ ∃ j, j < s.blen.toNat ∧ isHexDigit (s.wbuf (s.boff.toNat + j)) = false) := by
  refine ⟨by decide, by decide, by decide, by decide, by decide, by decide, by decide, by decide, 1, by decide, by decide⟩

/-- The largest window FBUILD takes: 238 digits. -/
theorem witness_FbuildWritesTheFrame :
    fbuildAccepts { withText (List.replicate 238 0x41) with blen := 238, ain := 0x00FFFF } := by
  unfold fbuildAccepts
  decide +kernel

/-- The smallest: an empty window, as in V-FB-1. -/
theorem witness_BuiltFrameHasTheWireLayout :
    fbuildAccepts { State.reset with func := 0x12, ain := 0x006C94 } ∧ ConfigLegal State.reset.cfg := by
  refine ⟨?_, witness_ConfigLegal⟩
  unfold fbuildAccepts
  decide

/-- V-FB-1 and V-FV-1: the frame built, and its copy in WBUF. -/
theorem witness_BuiltFrameValidates :
    fbuildAccepts { State.reset with func := 0x12, ain := 0x006C94 } ∧
      (run { State.reset with func := 0x12, ain := 0x006C94 } 0x00000030).map (·.txlen) = some (withText frame1).wlen ∧
      (run { State.reset with func := 0x12, ain := 0x006C94 } 0x00000030).map (·.txbufText 15) =
        some ((withText frame1).wbufText 0 15) :=
  ⟨witness_BuiltFrameHasTheWireLayout.1, by decide +kernel⟩

/-- V-FV-3: the frame `$1012946CCB61D6` with its data character `C` changed to `D`. -/
theorem witness_MutatedFrameIsNotValid :
    ishex [] = true ∧ ([] : Text).length % 2 = 0 ∧ ([] : Text).length ≤ 238 ∧
      frameOf (frameData 0x12 0x94 0x6C []) = frame1.take 8 ++ 0x43 :: frame1.drop 9 ∧ 3 ≤ (frame1.take 8).length ∧
      6 ≤ (frame1.drop 9).length ∧ (0x44 : Byte) ≠ 0x43 ∧ (0x44 : Byte) ≠ 0x24 := by
  decide +kernel

/-- Both sides of the answer-signal condition hold for V-FB-8's shape, and fail without arguments. -/
theorem witness_EchoedFrameMatchesOnlyAsStated :
    ishex (List.replicate 12 0x30) = true ∧ (List.replicate 12 0x30 : Text).length % 2 = 0 ∧
      (List.replicate 12 0x30 : Text).length ≤ 238 ∧
      find (frameOf (frameData 0x94 0x94 0x94 (List.replicate 12 0x30))) (answerSignal false (H2 0x94 ++ H2 0x94)) = some 0 ∧
      find (frameOf (frameData 0x94 0x94 0x94 [])) (answerSignal false (H2 0x94 ++ H2 0x94)) = none := by
  decide +kernel

theorem witness_TxstartStartsOrIsBusy : State.reset.txbusy = false ∧ busyState.txbusy = true := by decide

theorem witness_TxeStepEmitsCharacterOrTerminator :
    (let s := { busyState with pending := [.txe] };
      s.pending = [.txe] ∧ s.txbusy = true ∧ s.txpos.toNat < s.txlen.toNat) ∧
      (let s := { busyState with pending := [.txe], txpos := 2 };
        s.pending = [.txe] ∧ s.txbusy = true ∧ s.txlen.toNat ≤ s.txpos.toNat) ∧
      { State.reset with pending := [.txe] }.txbusy = false := by
  decide

theorem witness_TransmissionEmitsTheTextAndTerminator :
    let s := { withTx [0x41, 0x42] with pending := [cmdWrite Config.default 0x00000040, .txe, .txe, .txe] }
    s.txbusy = false ∧ s.pending = cmdWrite s.cfg 0x00000040 :: List.replicate (s.txlen.toNat + 1) .txe ++ [] := by
  decide

theorem witness_TransmittedTextIsLocked :
    busyState.txbusy = true ∧ (after (step busyState)).map (·.txbusy) = some true := by
  decide

/-- One state and character for each clause of RXE's step; the queue holds 4 lines and PART 511 or 512 characters. -/
theorem witness_RxeStepFollowsTheReceiveRule :
    State.reset.rxen = false ∧
      (let s := { State.reset with ctrl := 1, discard := true };
        s.rxen = true ∧ 0x0D = s.cfg.term ∧ (0x41 : Byte) ≠ s.cfg.term ∧ s.discard = true) ∧
      (let s := { State.reset with ctrl := 1 }; s.rxen = true ∧ 0x0D = s.cfg.term ∧ s.discard = false ∧ s.part = []) ∧
      (let s := { State.reset with ctrl := 1, part := [1], rxq := [[1], [2], [3], [4]] };
        s.rxen = true ∧ 0x0D = s.cfg.term ∧ s.discard = false ∧ s.part ≠ [] ∧ s.rxq.length = s.cfg.rxqDepth) ∧
      (let s := { State.reset with ctrl := 1, part := [1], rxq := [[1], [2], [3]] };
        s.rxen = true ∧ 0x0D = s.cfg.term ∧ s.discard = false ∧ s.part ≠ [] ∧ s.rxq.length ≠ s.cfg.rxqDepth) ∧
      (let s := { State.reset with ctrl := 1, part := List.replicate 511 0x58 };
        s.rxen = true ∧ (0x0A : Byte) ≠ s.cfg.term ∧ s.discard = false ∧ s.part.length < 512) ∧
      (let s := { State.reset with ctrl := 1, part := List.replicate 512 0x58 };
        s.rxen = true ∧ (0x0A : Byte) ≠ s.cfg.term ∧ s.discard = false ∧ 512 ≤ s.part.length) := by
  decide +kernel

/-- Lines of 1, 512 and 513 characters (V-RX-5, V-RX-3), and a full queue. -/
theorem witness_CompleteLineIsQueuedOrDroppedWhole :
    (let s := { State.reset with ctrl := 1, pending := [.rxChar 0x41, .rxChar 0x0D] };
      s.rxen = true ∧ s.discard = false ∧ s.part = [] ∧ 1 ≤ ([0x41] : Text).length ∧ s.cfg.term ∉ ([0x41] : Text) ∧
        s.pending = ([0x41] : Text).map Event.rxChar ++ .rxChar s.cfg.term :: []) ∧
      Config.default.term ∉ (List.replicate 512 0x58 : Text) ∧ ¬ 512 < (List.replicate 512 0x58 : Text).length ∧
      Config.default.term ∉ (List.replicate 513 0x58 : Text) ∧ 512 < (List.replicate 513 0x58 : Text).length ∧
      { State.reset with rxq := [[1], [2], [3], [4]] }.rxq.length = Config.default.rxqDepth := by
  refine ⟨by decide, ?_, by rw [List.length_replicate]; decide, ?_, by rw [List.length_replicate]; decide, by decide⟩ <;>
    exact fun h => absurd (List.eq_of_mem_replicate h) (by decide)

/-- An empty queue, and a line of the greatest length. -/
theorem witness_RxpopMovesTheOldestLine :
    State.reset.rxq = [] ∧
      { State.reset with rxq := [List.replicate 512 0x58] }.rxq = List.replicate 512 0x58 :: [] ∧
      (List.replicate 512 0x58 : Text).length ≤ 512 := by
  exact ⟨rfl, rfl, by rw [List.length_replicate]⟩

/-- A line without `$`, and one with two of them (V-FV-9). -/
theorem witness_FvalidChecksTheLastFrame :
    (let s := withText hexText; ∀ j, j < s.wlen.toNat → s.wbuf j ≠ 0x24) ∧
      (let s := withText ackAnswer;
        5 < s.wlen.toNat ∧ s.wbuf 5 = 0x24 ∧ ∀ j, j < s.wlen.toNat → 5 < j → s.wbuf j ≠ 0x24) := by
  decide +kernel

/-- A text with no signal, and V-MA-13's two occurrences. -/
theorem witness_MackFindsTheFirstAckSignal :
    (∀ p, ¬ signalAt (withText [0x24]) [0x24, 0x30, 0x35, 0x31, 0x32] p) ∧
      signalAt (withText ackAnswer) [0x24, 0x30, 0x35, 0x31, 0x32] 0 ∧ [0x24, 0x30, 0x35] ++ H2 0x12 = [0x24, 0x30, 0x35, 0x31, 0x32] := by
  refine ⟨fun p h => ?_, ⟨by decide +kernel, by decide +kernel⟩, by decide⟩
  have h1 := h.1
  have e : (withText [0x24]).wlen.toNat = 1 := rfl
  rw [e] at h1
  simp at h1

/-- Each case of MANS: an address of 17 bits, no signal, and a hit at index 5 that is the first (V-MA-3). -/
theorem witness_MansExtractsTheGroupState :
    2 ^ 16 ≤ (0x010000 : BitVec 24).toNat ∧ (0x006C94 : BitVec 24).toNat < 2 ^ 16 ∧
      (∀ p, ¬ signalAt (withText [0x24]) [0x24, 0x31, 0x43, 0x39, 0x34, 0x36, 0x43] p) ∧
      (signalAt (withText ackAnswer) [0x24, 0x31, 0x43, 0x39, 0x34, 0x36, 0x43] 5 ∧
        ∀ p', p' < 5 → ¬ signalAt (withText ackAnswer) [0x24, 0x31, 0x43, 0x39, 0x34, 0x36, 0x43] p') ∧
      ([0x24, 0x31, 0x43] : Text) ++ H2 0x94 ++ H2 0x6C = [0x24, 0x31, 0x43, 0x39, 0x34, 0x36, 0x43] := by
  refine ⟨by decide, by decide, fun p h => ?_, ⟨⟨by decide +kernel, by decide +kernel⟩, fun p' hp h => ?_⟩, by decide⟩
  · have h1 := h.1
    have e : (withText [0x24]).wlen.toNat = 1 := rfl
    rw [e] at h1
    simp at h1
  · have h1 := h.2 1 (by decide)
    have key : ∀ q, q < 5 → (withText ackAnswer).wbuf (q + 1) ≠ 0x31 ∨ (withText ackAnswer).wbuf q ≠ 0x24 := by decide +kernel
    rcases key p' hp with h2 | h2
    · exact h2 h1
    · exact h2 (h.2 0 (by decide))

/-- CHUNK's five cases, at their boundaries (V-CH-5 to V-CH-9). -/
theorem witness_ChunkReportsItsKind :
    1 ≤ (1 : Byte).toNat ∧
      (let s := { withText hexText with cptr := 9 }; s.wlen.toNat < s.cptr.toNat) ∧
      (let s := { withText hexText with cptr := 8 }; s.cptr = s.wlen) ∧
      (let s := { withText hexText with cptr := 7 };
        s.cptr.toNat < s.wlen.toNat ∧ s.wlen.toNat < s.cptr.toNat + (2 : Byte).toNat) ∧
      (let s := withText [0x46, 0x66];
        s.cptr.toNat + (2 : Byte).toNat ≤ s.wlen.toNat ∧
          ∀ j, j < (2 : Byte).toNat → s.wbuf (s.cptr.toNat + j) = 0x46 ∨ s.wbuf (s.cptr.toNat + j) = 0x66) ∧
      (let s := withText [0x46, 0x45];
        s.cptr.toNat + (2 : Byte).toNat ≤ s.wlen.toNat ∧
          ∃ j, j < (2 : Byte).toNat ∧ s.wbuf (s.cptr.toNat + j) ≠ 0x46 ∧ s.wbuf (s.cptr.toNat + j) ≠ 0x66) := by
  refine ⟨by decide, by decide, by decide, by decide, by decide +kernel, by decide, 1, by decide, by decide, by decide⟩

/-- A CHUNK that moves, and one that stays. -/
theorem witness_ChunkWalkAdvancesOrStops :
    (let s := withText [0x46, 0x45];
      s.cptr.toNat ≤ s.wlen.toNat ∧ (after (exec (.chunk 2) s)).map (·.cres.kind) = some .chunk) ∧
      (let s := withText [0x46, 0x66];
        s.cptr.toNat ≤ s.wlen.toNat ∧ (after (exec (.chunk 2) s)).map (·.cres.kind) = some .terminator) := by
  decide +kernel

theorem witness_HexgetParsesTheWindow :
    (1 ≤ (8 : Byte).toNat ∧ (8 : Byte).toNat ≤ 8) ∧
      (let s := { withText hexText with boff := 1 }; s.wlen.toNat < s.boff.toNat + (8 : Byte).toNat) ∧
      (let s := withText [0x24, 0x31];
        s.boff.toNat + (2 : Byte).toNat ≤ s.wlen.toNat ∧
          ∃ j, j < (2 : Byte).toNat ∧ isHexDigit (s.wbuf (s.boff.toNat + j)) = false) ∧
      (let s := withText hexText;
        s.boff.toNat + (8 : Byte).toNat ≤ s.wlen.toNat ∧
          ∀ j, j < (8 : Byte).toNat → isHexDigit (s.wbuf (s.boff.toNat + j)) = true) := by
  refine ⟨by decide, by decide, ⟨by decide, 0, by decide, by decide⟩, by decide +kernel⟩

/-- An error that changes ERRCODE, and a command that changes something else. -/
theorem witness_ErrorsChangeErrcodeAlone :
    (after (exec .rxpop State.reset)).map (·.errcode) = some .empty ∧
      (after (exec .c16init { State.reset with acc16 := 0 })).map (·.acc16) = some 0xFFFF := by
  decide

theorem witness_CommandsRaiseOnlyTheirCodes :
    (after (exec .rxpop State.reset)).map (·.errcode) = some .empty ∧ raisable .rxpop .empty = true := by
  decide

theorem witness_CrcAndAddressCommandFrames : ∃ t, exec .c16init State.reset = .next t := ⟨_, rfl⟩

theorem witness_ParserCommandFrames : ∃ t, exec .fvalid State.reset = .next t := ⟨_, rfl⟩

theorem witness_StoringAndLinkCommandFrames : ∃ t, exec .fbuild State.reset = .next t := ⟨_, rfl⟩

/-- AENC changes AOUT, and so does a hardware reset. -/
theorem witness_OnlyAddressCommandsWriteAout :
    State.reset.readReg .aout = 0 ∧ reads (run { State.reset with ain := 1 } 0x00000020) .aout = some 0x00200000 ∧
      reads (event { State.reset with aout := 5 } .hardReset) .aout = some 0 := by
  decide +kernel

/-- Two memories that agree on `WBUF[0 .. WLEN)` and differ elsewhere. -/
theorem witness_CommandsReadOnlyTheValidText :
    let s := { State.reset with mem := [(0x200, 0x41), (0x201, 0x42)], wlen := 1 }
    (∀ k, k < s.wlen.toNat → State.wbuf { s with mem := [(0x200, 0x41), (0x201, 0x43)] } k = s.wbuf k) ∧
      State.wbuf { s with mem := [(0x200, 0x41), (0x201, 0x43)] } 1 ≠ s.wbuf 1 := by
  decide

end Sys2Proof.Tests
end

namespace Sys2Proof.Machine

/-! ## From what an access reaches back to the access (20_memory.md R51, R55) -/

/-- Register `k` stands at offset `4 * k` (10_state.md section 2). -/
theorem offset_of_regMap {k : Nat} {r : Reg} (h : regMap[k]? = some r) : r.offset = 4 * k := by
  have hk : k < 22 := (List.getElem?_eq_some_iff.1 h).1
  have hall : ∀ j < 22, (regMap[j]?).map Reg.offset = some (4 * j) := by decide
  simpa [h] using hall k hk

theorem offsetTarget_eq_reg {off : Nat} {n : Width} {r : Reg} (h : offsetTarget off n = .ok (.reg r)) :
    off = r.offset ∧ n = .word := by
  rw [offsetTarget] at h
  split at h
  · split at h
    · cases h
    · rename_i hbad
      split at h
      · rename_i q hq
        cases h
        have := offset_of_regMap hq
        exact ⟨by omega, by simp_all⟩
      · cases h
  · split at h
    · split at h <;> cases h
    · split at h
      · split at h <;> cases h
      · cases h

/-- Only a 32-bit access at a register's own address reaches it. -/
theorem busTarget_eq_reg {cfg : Config} {addr : Nat} {n : Width} {r : Reg}
    (h : busTarget cfg addr n = .ok (.reg r)) : addr = cfg.base + r.offset ∧ n = .word := by
  rw [busTarget] at h
  split at h
  · cases h
  · obtain ⟨hoff, hn⟩ := offsetTarget_eq_reg h
    exact ⟨by omega, hn⟩

/-- Every buffer byte that an access reaches exists. -/
theorem busTarget_ok {cfg : Config} {addr : Nat} {n : Width} {t : Target} (h : busTarget cfg addr n = .ok t) :
    (∃ r, t = .reg r) ∨ (∃ i, i < txbufSize ∧ t = .txbuf i) ∨ ∃ i, i < wbufSize ∧ t = .wbuf i := by
  rw [busTarget] at h
  split at h
  · cases h
  · exact (offsetTarget_ok h).2

/-! ## One step, with the event that takes it -/

/-- All that one step can do, each case with the event at the head of `pending` (20_memory.md R57). It is `step_cases` with the
access kept, for the statements that name the access. -/
inductive StepBy (s : State) : State → Prop
  /-- No event is pending: TXE's step. -/
  | idle (hp : s.pending = []) : StepBy s (txeStep s)
  | txe (rest : List Event) (hp : s.pending = .txe :: rest) : StepBy s (txeStep { s with pending := rest })
  | rxChar (c : Byte) (rest : List Event) (hp : s.pending = .rxChar c :: rest) :
    StepBy s (rxeStep c { s with pending := rest })
  | hardReset (rest : List Event) (hp : s.pending = .hardReset :: rest) :
    StepBy s (hardReset { s with pending := rest })
  /-- A read, or an access refused with a bus error. -/
  | answer (a : Access) (r : Response) (rest : List Event) (hp : s.pending = .host a :: rest) :
    StepBy s { s with pending := rest, resp := r }
  | illegal (w : Word) (e : DecodeError) (rest : List Event) (hp : s.pending = cmdWrite s.cfg w :: rest)
    (hw : decode w = .error e) : StepBy s (illegalWord { s with pending := rest, resp := .written })
  | command (w : Word) (i : Instr) (t : State) (rest : List Event) (hp : s.pending = cmdWrite s.cfg w :: rest)
    (hw : decode w = .ok i) (ht : Effect i { s with pending := rest, resp := .written } t) : StepBy s t
  | register (r : Reg) (v : Word) (rest : List Event) (hp : s.pending = wrEvent s.cfg r v :: rest) :
    StepBy s (settled { s with pending := rest, resp := .written }
      (writeReg r v { s with pending := rest, resp := .written }))
  | txbuf (a : Access) (i : Nat) (b : Byte) (rest : List Event) (hp : s.pending = .host a :: rest) (hi : i < txbufSize) :
    StepBy s (settled { s with pending := rest, resp := .written }
      (writeTxbuf i b { s with pending := rest, resp := .written }))
  | wbuf (a : Access) (i : Nat) (b : Byte) (rest : List Event) (hp : s.pending = .host a :: rest) (hi : i < wbufSize) :
    StepBy s (writeWbuf i b { s with pending := rest, resp := .written })

theorem step_of_pending_nil {s : State} (hp : s.pending = []) : step s = .next (txeStep s) := by
  simp only [step, nextAction, hp]

/-- A pending event whose service is finished takes the whole step. -/
theorem step_of_done {s t : State} {e : Event} {rest : List Event} (hp : s.pending = e :: rest)
    (ht : serve e { s with pending := rest } = .done t) : step s = .next t := by
  simp only [step, nextAction, hp, ht]

/-- A 32-bit write of CMD hands its word on to be run (10_state.md R25). -/
theorem serve_cmdWrite (s : State) (w : Word) (rest : List Event) :
    serve (cmdWrite s.cfg w) { s with pending := rest } = .run w { s with pending := rest, resp := .written } := by
  simp only [serve, cmdWrite, hostAccess, busTarget_reg, hostWrite, respond]

/-- A legal command word runs its command in the same step (20_memory.md R52). -/
theorem step_of_legal_cmdWrite {s : State} {w : Word} {i : Instr} {rest : List Event}
    (hp : s.pending = cmdWrite s.cfg w :: rest) (hw : decode w = .ok i) :
    step s = exec i { s with pending := rest, resp := .written } := by
  simp only [step, nextAction, hp, serve_cmdWrite, hw]

/-- An illegal command word raises BAD_CMD (30_encoding.md R69). -/
theorem step_of_illegal_cmdWrite {s : State} {w : Word} {e : DecodeError} {rest : List Event}
    (hp : s.pending = cmdWrite s.cfg w :: rest) (hw : decode w = .error e) :
    step s = .next (illegalWord { s with pending := rest, resp := .written }) := by
  simp only [step, nextAction, hp, serve_cmdWrite, hw]

/-- A 32-bit write of any other register (20_memory.md R56). -/
theorem step_of_wrEvent {s : State} {r : Reg} {v : Word} {rest : List Event} (hr : r ≠ .cmd)
    (hp : s.pending = wrEvent s.cfg r v :: rest) :
    step s = .next (settled { s with pending := rest, resp := .written }
      (writeReg r v { s with pending := rest, resp := .written })) := by
  refine step_of_done hp ?_
  simp only [wrEvent, serve, hostAccess, busTarget_reg, hostWrite, respond]

/-- A 32-bit read of a register is answered and has no other effect (20_memory.md R56). -/
theorem step_of_rdEvent {s : State} {r : Reg} {rest : List Event} (hp : s.pending = rdEvent s.cfg r :: rest) :
    step s = .next { s with pending := rest, resp := .data (s.readReg r) } := by
  refine step_of_done hp ?_
  simp only [rdEvent, serve, hostAccess, busTarget_reg, respond]
  cases r <;> rfl

/-- A byte write to TXBUF (10_state.md R45). -/
theorem step_of_txbufWrite {s : State} {i : Nat} {v : Word} {rest : List Event} (hi : i < txbufSize)
    (hp : s.pending = .host (.write (s.cfg.base + (txbufBase + i)) .byte v) :: rest) :
    step s = .next (settled { s with pending := rest, resp := .written }
      (writeTxbuf i (v.extractLsb' 0 8) { s with pending := rest, resp := .written })) := by
  refine step_of_done hp ?_
  simp only [serve, hostAccess, busTarget_txbuf _ _ hi, hostWrite, respond]

/-- A byte write to WBUF (10_state.md R46). -/
theorem step_of_wbufWrite {s : State} {i : Nat} {v : Word} {rest : List Event} (hi : i < wbufSize)
    (hp : s.pending = .host (.write (s.cfg.base + (wbufBase + i)) .byte v) :: rest) :
    step s = .next (writeWbuf i (v.extractLsb' 0 8) { s with pending := rest, resp := .written }) := by
  refine step_of_done hp ?_
  simp only [serve, hostAccess, busTarget_wbuf _ _ hi, hostWrite, respond]

/-- What a write does that the bus accepts. -/
theorem step_by_write {s t : State} {addr : Nat} {n : Width} {v : Word} {rest : List Event} {u : Target}
    (hp : s.pending = .host (.write addr n v) :: rest) (hu : busTarget s.cfg addr n = .ok u)
    (h : step s = .next t) : StepBy s t := by
  rcases busTarget_ok hu with ⟨r, rfl⟩ | ⟨i, hi, rfl⟩ | ⟨i, hi, rfl⟩
  · obtain ⟨rfl, rfl⟩ := busTarget_eq_reg hu
    by_cases hr : r = .cmd
    · subst hr
      cases hw : decode v with
      | ok i =>
        rw [step_of_legal_cmdWrite hp hw] at h
        exact .command v i t rest hp hw (exec_effect h)
      | error e =>
        rw [step_of_illegal_cmdWrite hp hw] at h
        cases h
        exact .illegal v e rest hp hw
    · rw [step_of_wrEvent hr hp] at h
      cases h
      exact .register r v rest hp
  · rw [step_of_done hp (by simp only [serve, hostAccess, hu, hostWrite]; rfl)] at h
    cases h
    exact .txbuf _ i _ rest hp hi
  · rw [step_of_done hp (by simp only [serve, hostAccess, hu, hostWrite]; rfl)] at h
    cases h
    exact .wbuf _ i _ rest hp hi

/-- What a host access does. -/
theorem step_by_access {s t : State} {a : Access} {rest : List Event} (hp : s.pending = .host a :: rest)
    (h : step s = .next t) : StepBy s t := by
  cases a with
  | read addr n =>
    have ht : ∃ r, serve (.host (.read addr n)) { s with pending := rest } = .done { s with pending := rest, resp := r } := by
      cases hu : busTarget s.cfg addr n <;> exact ⟨_, by simp only [serve, hostAccess, hu]; rfl⟩
    obtain ⟨r, hr⟩ := ht
    rw [step_of_done hp hr] at h
    cases h
    exact .answer _ r rest hp
  | write addr n v =>
    cases hu : busTarget s.cfg addr n with
    | ok u => exact step_by_write hp hu h
    | error f =>
      rw [step_of_done hp (by simp only [serve, hostAccess, hu]; rfl)] at h
      cases h
      exact .answer _ _ rest hp

/-- Every step is one of these. -/
theorem step_by {s t : State} (h : step s = .next t) : StepBy s t := by
  cases hp : s.pending with
  | nil => rw [step_of_pending_nil hp] at h; cases h; exact .idle hp
  | cons e rest =>
    cases e with
    | host a => exact step_by_access hp h
    | txe => rw [step_of_done hp rfl] at h; cases h; exact .txe rest hp
    | rxChar c => rw [step_of_done hp rfl] at h; cases h; exact .rxChar c rest hp
    | hardReset => rw [step_of_done hp rfl] at h; cases h; exact .hardReset rest hp

end Sys2Proof.Machine

namespace Sys2Proof.Machine

/-! ## The invariant, kept by every operation -/

/-- The canonical form and the buffer offsets of a memory, as Inv asks of them. -/
structure MemOk (m : Memory) : Prop where
  wf : Memory.wf m = true
  offsets : ∀ c ∈ m, txbufBase ≤ c.1 ∧ c.1 < spaceEnd

theorem Inv.memOk {s : State} (h : Inv s) : MemOk s.mem := ⟨h.mem_wf, h.mem_offsets⟩

theorem memOk_insertAll {m : Memory} {x : Nat} {t : Text} (h : MemOk m) (hlo : txbufBase ≤ x)
    (hhi : x + t.length ≤ spaceEnd) : MemOk (Memory.insertAll m x t) where
  wf := Memory.wf_insertAll t m x h.wf
  offsets c hc := by
    rcases Memory.mem_insertAll hc with hin | hold
    · omega
    · exact h.offsets c hold

theorem memOk_insert {m : Memory} {x : Nat} {b : Byte} (h : MemOk m) (hlo : txbufBase ≤ x) (hhi : x < spaceEnd) :
    MemOk (Memory.insert m x b) :=
  memOk_insertAll (t := [b]) h hlo hhi

theorem Inv.withMem {s : State} (h : Inv s) {m : Memory} (hm : MemOk m) : Inv { s with mem := m } :=
  { h with mem_wf := hm.wf, mem_offsets := hm.offsets }

theorem Inv.raiseErr {s : State} (h : Inv s) (e : ErrCode) : Inv (raiseErr e s) := { h with }

/-- The event list and the bus answer are the model's own: no bound speaks of them. -/
theorem Inv.answered {s : State} (h : Inv s) (rest : List Event) (r : Response) :
    Inv { s with pending := rest, resp := r } := { h with }

theorem Inv.taken {s : State} (h : Inv s) (rest : List Event) : Inv { s with pending := rest } := { h with }

/-- The reset values meet every bound (10_state.md R48). -/
theorem inv_reset : Inv State.reset where
  cfg_legal := ⟨by decide, by decide, by decide, by decide⟩
  wlen_le := by decide
  txlen_le := by decide
  txpos_le := by decide
  mem_wf := rfl
  mem_offsets := by decide
  rxq_le := by decide
  rxq_lines := by simp [State.reset]
  part_le := by decide
  part_no_term := by decide
  discard_part := by decide
  vres_not_found := by decide
  vres_valid := by decide
  mres_state := by decide
  mres_hit := by decide
  cres_none := by decide

/-- SRESET keeps the parameters and the buffers, and the rest is the reset state (40_control.md R82). -/
theorem Inv.softReset {s : State} (h : Inv s) : Inv (softReset s) :=
  { inv_reset with
    cfg_legal := h.cfg_legal, mem_wf := h.mem_wf, mem_offsets := h.mem_offsets
    rxq_le := Nat.zero_le _, rxq_lines := by simp [State.reset], part_no_term := by simp [State.reset] }

theorem Inv.hardReset {s : State} (h : Inv s) : Inv (hardReset s) :=
  { h.softReset with mem_wf := rfl, mem_offsets := by simp }

/-- FVALID's result is 0 where it finds no frame, and VALID is the AND of the four checks (45_parse.md R140). -/
theorem validateLine_ok (t : Text) :
    ((validateLine t).found = false → validateLine t = VRes.zero) ∧
      (validateLine t).valid = ((validateLine t).structOk && (validateLine t).lenOk && (validateLine t).crc16Ok &&
        (validateLine t).crc8Ok) := by
  cases h : rfind t dollar <;> simp [validateLine, h, frameChecks, VRes.zero]

/-! ### Commands -/

/-- Every effect of a command keeps the invariant. -/
theorem Inv.effect {s t : State} {i : Instr} (h : Inv s) (ht : Effect i s t) : Inv t := by
  cases i with
  | nop => rw [show t = s from ht]; exact h
  | sreset => rw [show t = Machine.softReset s from ht]; exact h.softReset
  | c16init | c16byte b | c8init | c8byte x | aenc =>
    simp only [Effect] at ht
    subst ht
    exact { h with }
  | c16hex =>
    obtain ⟨e, -, rfl⟩ | ⟨-, -, -, rfl⟩ := ht
    · exact h.raiseErr e
    · exact { h with }
  | c8text =>
    obtain rfl | ⟨-, rfl⟩ := ht
    · exact h.raiseErr _
    · exact { h with }
  | akey k => obtain ⟨v, rfl⟩ | rfl := ht <;> exact { h with }
  | aswap =>
    obtain rfl | ⟨-, rfl⟩ := ht
    · exact h.raiseErr _
    · exact { h with }
  | fbuild =>
    obtain ⟨e, -, rfl⟩ | ⟨hbusy, -, -, -, hargs, -, rfl⟩ := ht
    · exact h.raiseErr e
    · have hlen : s.builtFrame.length ≤ 253 := by simp only [builtFrame_length, maxArgs] at hargs ⊢; omega
      have hm : MemOk (Memory.insertAll s.mem txbufBase s.builtFrame) :=
        memOk_insertAll h.memOk le_rfl (by simp only [txbufBase, spaceEnd]; omega)
      refine { h.withMem hm with txlen_le := ?_, txpos_le := ?_ }
      · simp only [BitVec.toNat_ofNat, txbufSize]; omega
      · intro hb
        simp [hbusy] at hb
  | fvalid =>
    rw [show t = { s with vres := validateLine s.line } from ht]
    exact { h with vres_not_found := (validateLine_ok s.line).1, vres_valid := (validateLine_ok s.line).2 }
  | mack =>
    obtain rfl | ⟨p, rfl⟩ := ht
    · exact { h with mres_hit := by simp }
    · exact { h with mres_hit := by simp }
  | mans v =>
    obtain rfl | rfl | ⟨p, a, b, rfl⟩ | ⟨p, rfl⟩ := ht
    · exact h.raiseErr _
    · exact { h with mres_hit := by simp }
    · exact { h with mres_state := by simp, mres_hit := by simp }
    · exact { h with mres_state := by simp, mres_hit := by simp }
  | chunk n =>
    obtain rfl | ⟨k, hk, rfl⟩ | ⟨p, rfl⟩ := ht
    · exact h.raiseErr _
    · refine { h with cres_none := ?_ }
      rcases hk with rfl | rfl | rfl <;> simp
    · exact { h with cres_none := by simp }
  | hexget n =>
    obtain ⟨e, -, rfl⟩ | ⟨v, rfl⟩ := ht
    · exact h.raiseErr e
    · exact { h with }
  | txstart =>
    obtain ⟨-, rfl⟩ | ⟨-, rfl⟩ := ht
    · exact h.raiseErr _
    · exact { h with txpos_le := by simp }
  | rxpop =>
    obtain ⟨-, rfl⟩ | ⟨line, rest, hq, rfl⟩ := ht
    · exact h.raiseErr _
    · have hline : line.length ≤ 512 := (h.rxq_lines line (by simp [hq])).length_le
      have hm : MemOk (Memory.insertAll s.mem wbufBase line) :=
        memOk_insertAll h.memOk (by decide) (by simp only [wbufBase, spaceEnd]; omega)
      refine { h.withMem hm with wlen_le := ?_, rxq_le := ?_, rxq_lines := ?_ }
      · simp only [BitVec.toNat_ofNat, wbufSize]; omega
      · have := h.rxq_le
        simp only [hq, List.length_cons] at this
        simp only [State.setCells_cfg]
        omega
      · exact fun l hl => h.rxq_lines l (by simp [hq, hl])
  | rxflush =>
    rw [show t = { s with rxq := [], part := [], discard := false } from ht]
    exact { h with rxq_le := Nat.zero_le _, rxq_lines := by simp, part_le := Nat.zero_le _, part_no_term := by simp,
                   discard_part := by simp }

/-! ### Register and buffer writes -/

theorem writeWlen_range {v : Word} (s : State) (hv : wbufSize < (v.extractLsb' 0 16).toNat) :
    writeWlen v s = .error .range := if_pos hv

theorem writeWlen_ok {v : Word} (s : State) (hv : (v.extractLsb' 0 16).toNat ≤ wbufSize) :
    writeWlen v s = .ok { s with wlen := v.extractLsb' 0 16 } := if_neg (Nat.not_lt.2 hv)

theorem writeTxlen_busy {v : Word} {s : State} (hb : s.txbusy = true) : writeTxlen v s = .error .busy := if_pos hb

theorem writeTxlen_range {v : Word} {s : State} (hb : s.txbusy = false) (hv : txbufSize < (v.extractLsb' 0 16).toNat) :
    writeTxlen v s = .error .range := by
  rw [writeTxlen, if_neg (by simp [hb]), if_pos hv]

theorem writeTxlen_ok {v : Word} {s : State} (hb : s.txbusy = false) (hv : (v.extractLsb' 0 16).toNat ≤ txbufSize) :
    writeTxlen v s = .ok { s with txlen := v.extractLsb' 0 16 } := by
  rw [writeTxlen, if_neg (by simp [hb]), if_neg (Nat.not_lt.2 hv)]

theorem writeTxbuf_busy {s : State} (i : Nat) (b : Byte) (hb : s.txbusy = true) : writeTxbuf i b s = .error .busy :=
  if_pos hb

theorem writeTxbuf_ok {s : State} (i : Nat) (b : Byte) (hb : s.txbusy = false) :
    writeTxbuf i b s = .ok (s.setCell (txbufBase + i) b) := if_neg (by simp [hb])

/-- All that a write of WLEN can come to (10_state.md R34). -/
theorem writeWlen_cases (v : Word) (s : State) :
    writeWlen v s = .error .range ∨
      ((v.extractLsb' 0 16).toNat ≤ wbufSize ∧ writeWlen v s = .ok { s with wlen := v.extractLsb' 0 16 }) := by
  rcases Nat.lt_or_ge wbufSize (v.extractLsb' 0 16).toNat with hv | hv
  · exact .inl (writeWlen_range s hv)
  · exact .inr ⟨hv, writeWlen_ok s hv⟩

/-- All that a write of TXLEN can come to (10_state.md R35, 44_link.md R126). -/
theorem writeTxlen_cases (v : Word) (s : State) :
    (∃ e, writeTxlen v s = .error e) ∨
      (s.txbusy = false ∧ (v.extractLsb' 0 16).toNat ≤ txbufSize ∧
        writeTxlen v s = .ok { s with txlen := v.extractLsb' 0 16 }) := by
  rcases Bool.eq_false_or_eq_true s.txbusy with hb | hb
  · exact .inl ⟨_, writeTxlen_busy hb⟩
  · rcases Nat.lt_or_ge txbufSize (v.extractLsb' 0 16).toNat with hv | hv
    · exact .inl ⟨_, writeTxlen_range hb hv⟩
    · exact .inr ⟨hb, hv, writeTxlen_ok hb hv⟩

/-- All that a byte write to TXBUF can come to (10_state.md R45, 44_link.md R126). -/
theorem writeTxbuf_cases (i : Nat) (b : Byte) (s : State) :
    writeTxbuf i b s = .error .busy ∨ writeTxbuf i b s = .ok (s.setCell (txbufBase + i) b) := by
  rcases Bool.eq_false_or_eq_true s.txbusy with hb | hb
  · exact .inl (writeTxbuf_busy i b hb)
  · exact .inr (writeTxbuf_ok i b hb)

/-- A CTRL write that changes RXEN from 1 to 0 (10_state.md R23). -/
theorem writeCtrl_disables {v : Word} {s : State} (h : s.rxen = true ∧ v.getLsbD 0 = false) :
    writeCtrl v s = { s with ctrl := v.extractLsb' 0 5, part := [], discard := false } :=
  if_pos (by rw [h.1, h.2]; rfl)

/-- Any other CTRL write. -/
theorem writeCtrl_keeps {v : Word} {s : State} (h : ¬ (s.rxen = true ∧ v.getLsbD 0 = false)) :
    writeCtrl v s = { s with ctrl := v.extractLsb' 0 5 } :=
  if_neg (by simpa using h)

/-- All that a write of CTRL can come to. -/
theorem writeCtrl_cases (v : Word) (s : State) :
    writeCtrl v s = { s with ctrl := v.extractLsb' 0 5, part := [], discard := false } ∨
      writeCtrl v s = { s with ctrl := v.extractLsb' 0 5 } :=
  (em _).imp writeCtrl_disables writeCtrl_keeps

theorem Inv.writeCtrl {s : State} (h : Inv s) (v : Word) : Inv (writeCtrl v s) := by
  rcases writeCtrl_cases v s with hr | hr <;> rw [hr]
  · exact { h with part_le := Nat.zero_le _, part_no_term := by simp, discard_part := by simp }
  · exact { h with }

theorem Inv.writeWlen {s : State} (h : Inv s) (v : Word) : Inv (settled s (writeWlen v s)) := by
  rcases writeWlen_cases v s with hr | ⟨hv, hr⟩ <;> rw [hr]
  · exact h.raiseErr _
  · exact { h with wlen_le := hv }

theorem Inv.writeTxlen {s : State} (h : Inv s) (v : Word) : Inv (settled s (writeTxlen v s)) := by
  rcases writeTxlen_cases v s with ⟨e, hr⟩ | ⟨hbusy, hv, hr⟩ <;> rw [hr]
  · exact h.raiseErr e
  · exact { h with txlen_le := hv, txpos_le := by simp [hbusy] }

/-- Every register write keeps the invariant (10_state.md R23-R44). -/
theorem Inv.writeReg {s : State} (h : Inv s) (r : Reg) (v : Word) : Inv (settled s (writeReg r v s)) := by
  cases r with
  | cmd | aout | vres | stateA | stateB | cres | hval | rxcnt | txpos => exact h
  | status | errcode | crc16 | crc8 | ain | func | boff | blen | cptr => exact { h with }
  | ctrl => exact h.writeCtrl v
  | wlen => exact h.writeWlen v
  | txlen => exact h.writeTxlen v
  | mres =>
    exact { h with
      mres_state := by simp [Machine.writeReg, MRes.zero], mres_hit := by simp [Machine.writeReg, MRes.zero] }

theorem Inv.setCell {s : State} (h : Inv s) {off : Nat} (b : Byte) (hlo : txbufBase ≤ off) (hhi : off < spaceEnd) :
    Inv (s.setCell off b) := h.withMem (memOk_insert h.memOk hlo hhi)

theorem Inv.writeTxbuf {s : State} (h : Inv s) {i : Nat} (hi : i < txbufSize) (b : Byte) :
    Inv (settled s (writeTxbuf i b s)) := by
  rcases writeTxbuf_cases i b s with hr | hr <;> rw [hr]
  · exact h.raiseErr _
  · simp only [txbufSize] at hi
    exact h.setCell b (Nat.le_add_right _ _) (by simp only [txbufBase, spaceEnd]; omega)

theorem Inv.writeWbuf {s : State} (h : Inv s) {i : Nat} (hi : i < wbufSize) (b : Byte) : Inv (writeWbuf i b s) := by
  simp only [wbufSize] at hi
  exact h.setCell b (by simp only [txbufBase, wbufBase]; omega) (by simp only [wbufBase, spaceEnd]; omega)

/-! ### The two engines -/

/-- TXE's step keeps the invariant: TXPOS moves only while it is below TXLEN (44_link.md R121). -/
theorem Inv.txeStep {s : State} (h : Inv s) : Inv (txeStep s) := by
  rcases txeStep_cases s with ⟨-, ht⟩ | ⟨-, hlt, ht⟩ | ⟨-, -, ht⟩ <;> rw [ht]
  · exact h
  · refine { h with txpos_le := fun _ => ?_ }
    have hlen := h.txlen_le
    simp only [txbufSize] at hlen
    have hpos : (s.txpos + 1).toNat = s.txpos.toNat + 1 := by
      rw [BitVec.toNat_add]
      exact Nat.mod_eq_of_lt (by simp; omega)
    simp only [hpos]
    omega
  · exact { h with txpos_le := by simp }

/-- RXE's step keeps the invariant: it queues only a whole line, and only while RXQ has room (44_link.md R127). -/
theorem Inv.rxeStep {s : State} (h : Inv s) (c : Byte) : Inv (rxeStep c s) := by
  rcases rxeStep_cases c s with ⟨-, ht⟩ | ⟨-, -, -, ht⟩ | ⟨-, -, -, -, ht⟩ | ⟨-, -, -, -, -, ht⟩ |
    ⟨-, -, -, hpart, hroom, ht⟩ | ⟨-, -, -, ht⟩ | ⟨-, hterm, hdiscard, hlen, ht⟩ | ⟨-, -, -, -, ht⟩ <;> rw [ht]
  · exact h
  · exact { h with part_le := Nat.zero_le _, part_no_term := by simp, discard_part := by simp }
  · exact h
  · exact { h with part_le := Nat.zero_le _, part_no_term := by simp, discard_part := by simp }
  · have hline : LineOk s.cfg s.part := ⟨List.length_pos_iff.2 hpart, h.part_le, h.part_no_term⟩
    have hq := h.rxq_le
    refine { h with rxq_le := ?_, rxq_lines := ?_, part_le := Nat.zero_le _, part_no_term := by simp, discard_part := by simp }
    · simp only [List.length_append, List.length_singleton]
      omega
    · intro l hl
      rcases List.mem_append.1 hl with hold | hnew
      · exact h.rxq_lines l hold
      · rw [List.mem_singleton.1 hnew]
        exact hline
  · exact h
  · refine { h with part_le := ?_, part_no_term := ?_, discard_part := by simp [hdiscard] }
    · simp only [List.length_append, List.length_singleton]
      omega
    · simpa [h.part_no_term] using Ne.symm hterm
  · exact { h with part_le := Nat.zero_le _, part_no_term := by simp, discard_part := by simp }

/-! ### The machine -/

/-- Settles O8, field by field. -/
theorem invariantHoldsAtReset : Obligations.InvariantHoldsAtReset := inv_reset

/-- Settles O9: agent by agent, each operation keeps the invariant. -/
theorem stepKeepsTheInvariant : Obligations.StepKeepsTheInvariant := by
  intro s t h hstep
  cases step_by hstep with
  | idle hp => exact h.txeStep
  | txe rest hp => exact (h.taken rest).txeStep
  | rxChar c rest hp => exact (h.taken rest).rxeStep c
  | hardReset rest hp => exact (h.taken rest).hardReset
  | answer a r rest hp => exact h.answered rest r
  | illegal w e rest hp hw => exact (h.answered rest .written).raiseErr .badCmd
  | command w i _ rest hp hw ht => exact (h.answered rest .written).effect ht
  | register r v rest hp => exact (h.answered rest .written).writeReg r v
  | txbuf a i b rest hp hi => exact (h.answered rest .written).writeTxbuf hi b
  | wbuf a i b rest hp hi => exact (h.answered rest .written).writeWbuf hi b

end Sys2Proof.Machine

namespace Sys2Proof.Machine

/-! ## The words in which the host reads flags and fields (10_state.md R23-R44) -/

theorem getLsbD_setWidth_of_le {n m : Nat} (x : BitVec n) (h : n ≤ m) (k : Nat) :
    (x.setWidth m).getLsbD k = x.getLsbD k := by
  rw [BitVec.getLsbD_setWidth]
  by_cases hk : k < m
  · simp [hk]
  · simp [hk, BitVec.getLsbD_of_ge x k (by omega)]

/-- The field mask of a register of `n` bits (10_state.md section 2: reserved bits read 0). -/
theorem setWidth_extractLsb'_eq_and (v : Word) {n : Nat} (h : n ≤ 32) :
    (v.extractLsb' 0 n).setWidth 32 = v &&& BitVec.ofNat 32 (2 ^ n - 1) := by
  have hpow : 2 ^ n ≤ 2 ^ 32 := Nat.pow_le_pow_right (by decide) h
  have hmask : (BitVec.ofNat 32 (2 ^ n - 1)).toNat = 2 ^ n - 1 := by
    rw [BitVec.toNat_ofNat, Nat.mod_eq_of_lt (by have := Nat.two_pow_pos n; omega)]
  apply BitVec.eq_of_toNat_eq
  rw [BitVec.toNat_setWidth_of_le h, BitVec.toNat_and, hmask, Nat.and_two_pow_sub_one_eq_mod]
  simp

/-- The number in the low `n` bits of a written value. -/
theorem toNat_extractLsb'_eq_and (v : Word) {n : Nat} (h : n ≤ 32) :
    (v.extractLsb' 0 n).toNat = (v &&& BitVec.ofNat 32 (2 ^ n - 1)).toNat := by
  rw [← setWidth_extractLsb'_eq_and v h, BitVec.toNat_setWidth_of_le h]

/-- A word that ends in a flag: the flag is its lowest bit, and the word it was appended to stands above. -/
theorem getLsbD_append_flag {n : Nat} (x : BitVec n) (b : Bool) (k : Nat) :
    (x ++ flag b).getLsbD k = if k = 0 then b else x.getLsbD (k - 1) := by
  cases k with
  | zero => cases b <;> simp [BitVec.getLsbD_append, flag, -BitVec.getLsbD_eq_getElem]
  | succ k => simp [BitVec.getLsbD_append]

theorem getLsbD_flag (b : Bool) (k : Nat) : (flag b).getLsbD k = if k = 0 then b else false := by
  cases k <;> cases b <;> simp [flag]

/-- A field below `m` zero bits, read from the bit above it. -/
theorem getLsbD_append_zeros {n m : Nat} (x : BitVec n) (k : Nat) :
    (x ++ (0 : BitVec m)).getLsbD k = if m ≤ k then x.getLsbD (k - m) else false := by
  by_cases hk : k < m
  · simp [BitVec.getLsbD_append, hk]
  · simp [BitVec.getLsbD_append, hk, Nat.not_lt.1 hk]

theorem statusWord_getLsbD (s : State) (k : Nat) :
    s.statusWord.getLsbD k =
      if k = 0 then s.rxne else if k = 1 then s.txbusy else if k = 2 then s.txdone else if k = 3 then s.err
      else if k = 4 then s.ovr else if k = 5 then s.long else if k = 6 then s.qfull else if k = 7 then s.irq
      else false := by
  simp only [State.statusWord, getLsbD_setWidth_of_le _ (show 8 ≤ 32 by decide), getLsbD_append_flag, getLsbD_flag]
  match k with
  | 0 | 1 | 2 | 3 | 4 | 5 | 6 | 7 => rfl
  | k + 8 => rfl

theorem vres_word_getLsbD (v : VRes) (k : Nat) :
    v.word.getLsbD k =
      if k = 0 then v.found else if k = 1 then v.structOk else if k = 2 then v.lenOk else if k = 3 then v.crc16Ok
      else if k = 4 then v.crc8Ok else if k = 5 then v.valid else if 16 ≤ k then v.foff.getLsbD (k - 16) else false := by
  simp only [VRes.word, getLsbD_setWidth_of_le _ (show 32 ≤ 32 by decide), getLsbD_append_flag, getLsbD_append_zeros]
  match k with
  | 0 | 1 | 2 | 3 | 4 | 5 => rfl
  | k + 6 => simp

theorem mres_word_getLsbD (m : MRes) (k : Nat) :
    m.word.getLsbD k =
      if k = 0 then m.ackSeen else if k = 1 then m.ansSeen else if k = 2 then m.stateOk else if k = 3 then m.lastHit
      else if 16 ≤ k then m.lastOff.getLsbD (k - 16) else false := by
  simp only [MRes.word, getLsbD_setWidth_of_le _ (show 32 ≤ 32 by decide), getLsbD_append_flag, getLsbD_append_zeros]
  match k with
  | 0 | 1 | 2 | 3 => rfl
  | k + 4 => simp

theorem aoutWord_getLsbD (s : State) (k : Nat) :
    s.aoutWord.getLsbD k = if k < 24 then s.aout.getLsbD k else if k = 31 then s.unres else false := by
  simp only [State.aoutWord, getLsbD_setWidth_of_le _ (show 32 ≤ 32 by decide), BitVec.getLsbD_append (y := s.aout),
    getLsbD_append_zeros, getLsbD_flag]
  by_cases h : k < 24
  · simp [h]
  · by_cases h31 : k = 31
    · simp [h31]
    · have hne : 7 ≤ k - 24 → k - 24 - 7 ≠ 0 := by omega
      simp +contextual [h, h31, hne]

theorem cres_word_getLsbD (c : CRes) (k : Nat) :
    c.word.getLsbD k =
      if k < 3 then c.kind.code.getLsbD k else if 16 ≤ k then c.start.getLsbD (k - 16) else false := by
  simp only [CRes.word, getLsbD_setWidth_of_le _ (show 32 ≤ 32 by decide), BitVec.getLsbD_append (y := c.kind.code),
    getLsbD_append_zeros]
  by_cases h : k < 3
  · simp [h]
  · obtain ⟨j, rfl⟩ := Nat.exists_eq_add_of_le (Nat.not_lt.1 h)
    simp [Nat.add_comm 3 j]

theorem rxcntWord_getLsbD (s : State) (k : Nat) :
    s.rxcntWord.getLsbD k =
      if k < 8 then (BitVec.ofNat 8 s.rxq.length).getLsbD k else if k = 8 then s.discard
      else if 16 ≤ k then (BitVec.ofNat 16 s.part.length).getLsbD (k - 16) else false := by
  simp only [State.rxcntWord, getLsbD_setWidth_of_le _ (show 32 ≤ 32 by decide),
    BitVec.getLsbD_append (y := BitVec.ofNat 8 s.rxq.length), getLsbD_append_flag, getLsbD_append_zeros]
  by_cases h : k < 8
  · simp only [if_pos h]
  · obtain ⟨j, rfl⟩ := Nat.exists_eq_add_of_le (Nat.not_lt.1 h)
    cases j with
    | zero => rfl
    | succ j => simp [Nat.add_comm 8]

/-! ## Settled: what the host reads -/

/-- Settles O24: each word bit by bit; the single fields and the numbers stand in `readReg` itself. -/
theorem resultWordsShowTheirFields : Obligations.ResultWordsShowTheirFields := by
  refine ⟨fun s k => ⟨aoutWord_getLsbD s k, vres_word_getLsbD s.vres k, mres_word_getLsbD s.mres k,
    cres_word_getLsbD s.cres k, rxcntWord_getLsbD s k⟩, fun s => ?_, fun s e n hn he => ?_, fun s kind n hn hk => ?_⟩
  · exact ⟨rfl, rfl, rfl, rfl, rfl, rfl, rfl, rfl, rfl, rfl, rfl, rfl, rfl, rfl, rfl⟩
  · have hcode : ∀ p ∈ [(ErrCode.none, (0 : Word)), (.badCmd, 1), (.busy, 2), (.range, 3), (.badArg, 4), (.notHex, 5),
        (.empty, 6)], p.1.code.setWidth 32 = p.2 := by decide
    rw [State.readReg, he]
    exact hcode (e, n) hn
  · have hcode : ∀ p ∈ [(ChunkKind.none, (0 : BitVec 3)), (.chunk, 1), (.terminator, 2), (.short, 3), (.ended, 4)],
        p.1.code = p.2 := by decide
    have hlow : s.cres.word.extractLsb' 0 3 = s.cres.kind.code := by
      ext j hj
      simp [cres_word_getLsbD, hj]
    rw [State.readReg, hlow, hk]
    exact hcode (kind, n) hn

/-- Settles O20: STATUS bit by bit, and a write of it as one update. -/
theorem statusBitsAndWriteOneToClear : Obligations.StatusBitsAndWriteOneToClear := by
  refine ⟨fun s => ?_, fun s v rest hp => ?_⟩
  · have hrxne : s.rxne = decide (s.rxq ≠ []) := by cases h : s.rxq <;> simp [State.rxne, h]
    have herr : s.err = decide (s.errcode ≠ .none) := by cases h : s.errcode <;> simp [State.err, h]
    have hqfull : s.qfull = decide (s.rxq.length = s.cfg.rxqDepth) := rfl
    have hctrl : ∀ k, (s.ctrl.setWidth 32).getLsbD k = s.ctrl.getLsbD k := getLsbD_setWidth_of_le _ (by decide)
    simp only [State.readReg, statusWord_getLsbD, hctrl]
    refine ⟨hrxne, rfl, rfl, herr, rfl, rfl, hqfull, rfl, rfl, fun k hk => ?_⟩
    simp (disch := omega) only [if_neg]
  · have hclear : ∀ b c : Bool, (b && !c) = if c then false else b := by decide
    rw [step_of_wrEvent (by decide) hp]
    simp only [writeReg, writeStatus, settled_ok, hclear]

end Sys2Proof.Machine

namespace Sys2Proof.Machine

/-! ## Commands and resets -/

/-- Settles O6: both halves are the step laws of the CMD write and of a register read. -/
theorem stepRunsTheWrittenCommand : Obligations.StepRunsTheWrittenCommand :=
  ⟨fun _ _ _ _ hp hw => step_of_legal_cmdWrite hp hw, fun _ _ hp => step_of_rdEvent hp⟩

/-- A cell that nothing has written reads its free byte (10_state.md R48). -/
theorem cell_of_mem_nil {s : State} (hm : s.mem = []) (off : Nat) : s.cell off = Config.unwrittenByte s.resets off := by
  simp [State.cell, hm, Memory.lookup]

theorem readReg_reset (r : Reg) : State.reset.readReg r = resetWord r := by
  cases r <;> decide

/-- After SRESET every register reads as at reset; QFULL does so because RXQ_DEPTH is at least 1 (40_control.md R82). -/
theorem readReg_softReset {s : State} (hc : ConfigLegal s.cfg) (r : Reg) :
    (softReset s).readReg r = State.reset.readReg r := by
  cases r with
  | status =>
    have hpos := hc.depth_pos
    have hq : (softReset s).qfull = State.reset.qfull := by
      simp [State.qfull, State.reset, Config.default]
      omega
    rw [State.readReg, State.statusWord, hq]
    rfl
  | _ => rfl

/-- Settles O10: with no cell written, every buffer byte is the free one. -/
theorem resetHoldsTheTableValues : Obligations.ResetHoldsTheTableValues :=
  ⟨readReg_reset, rfl, rfl, rfl, rfl, rfl, cell_of_mem_nil rfl⟩

/-- Settles O11: a hardware reset is SRESET with a new draw of the buffer bytes. -/
theorem hardwareResetRestoresEverything : Obligations.HardwareResetRestoresEverything := by
  intro s rest hc hp
  refine ⟨hardReset { s with pending := rest }, step_of_done hp rfl, fun r => ?_, rfl, rfl, rfl, rfl, rfl,
    Nat.succ_ne_self s.resets, cell_of_mem_nil rfl, rfl, rfl, rfl⟩
  rw [← readReg_reset r, ← readReg_softReset (s := { s with pending := rest }) hc r]
  cases r <;> rfl

/-! ## Writes -/

/-- Settles O16: in both buffers the step is one `setCell`. -/
theorem bufferByteWriteReadsBack : Obligations.BufferByteWriteReadsBack := by
  intro s off v rest hoff hp
  have hstep : step s = .next ({ s with pending := rest, resp := .written }.setCell off (v.extractLsb' 0 8)) := by
    rcases hoff with ⟨hlo, hhi, hbusy⟩ | ⟨hlo, hhi⟩
    · obtain ⟨i, rfl⟩ := Nat.exists_eq_add_of_le hlo
      rw [step_of_txbufWrite (by simp only [txbufSize]; omega) hp,
        writeTxbuf_ok (s := { s with pending := rest, resp := .written }) _ _ hbusy]
      rfl
    · obtain ⟨i, rfl⟩ := Nat.exists_eq_add_of_le hlo
      exact step_of_wbufWrite (by simp only [wbufSize]; omega) hp
  refine ⟨_, hstep, ?_, fun y hy => ?_, rfl⟩
  · rw [State.cell_setCell, if_pos rfl]
  · rw [State.cell_setCell, if_neg (Ne.symm hy)]
    rfl

/-- Settles O18: the field's low bits are the mask, and no other register shows the field. -/
theorem plainRegistersReadBackMasked : Obligations.PlainRegistersReadBackMasked := by
  intro r mask hr s v rest hp
  simp only [List.mem_cons, Prod.mk.injEq, List.not_mem_nil, or_false] at hr
  rcases hr with ⟨rfl, rfl⟩ | ⟨rfl, rfl⟩ | ⟨rfl, rfl⟩ | ⟨rfl, rfl⟩ | ⟨rfl, rfl⟩ | ⟨rfl, rfl⟩ | ⟨rfl, rfl⟩ <;>
    refine ⟨_, step_of_wrEvent (by decide) hp, setWidth_extractLsb'_eq_and v (by decide), fun r' hne => ?_,
      rfl, rfl, rfl, rfl, rfl, rfl, rfl, rfl, rfl⟩
  · cases r' with | crc16 => exact absurd rfl hne | _ => rfl
  · cases r' with | crc8 => exact absurd rfl hne | _ => rfl
  · cases r' with | ain => exact absurd rfl hne | _ => rfl
  · cases r' with | func => exact absurd rfl hne | _ => rfl
  · cases r' with | boff => exact absurd rfl hne | _ => rfl
  · cases r' with | blen => exact absurd rfl hne | _ => rfl
  · cases r' with | cptr => exact absurd rfl hne | _ => rfl

/-- Settles O19: the write either disables the receiver or keeps what it holds. -/
theorem ctrlWriteAndReceiverDisable : Obligations.CtrlWriteAndReceiverDisable := by
  intro s v rest hp
  have hstep := step_of_wrEvent (by decide) hp
  have hmask := setWidth_extractLsb'_eq_and v (n := 5) (by decide)
  by_cases hoff : s.rxen = true ∧ v.getLsbD 0 = false
  · exact ⟨_, hstep.trans (congrArg _ (writeCtrl_disables hoff)), hmask, fun _ => ⟨rfl, rfl⟩, fun h => absurd hoff h, rfl⟩
  · exact ⟨_, hstep.trans (congrArg _ (writeCtrl_keeps hoff)), hmask, fun h => absurd h hoff, fun _ => ⟨rfl, rfl⟩, rfl⟩

/-- Settles O22: each is a register write, read off `writeReg`. -/
theorem clearingAndReadOnlyWrites : Obligations.ClearingAndReadOnlyWrites := by
  have hzero : MRes.zero.word = 0 := by decide
  refine ⟨fun s v rest hp => step_of_wrEvent (by decide) hp,
    fun s v rest hp => ⟨_, step_of_wrEvent (by decide) hp, hzero, rfl⟩, fun r hr s v rest hp => ?_⟩
  simp only [List.mem_cons, List.not_mem_nil, or_false] at hr
  rcases hr with rfl | rfl | rfl | rfl | rfl | rfl | rfl | rfl <;> exact step_of_wrEvent (by decide) hp

/-- Settles O23: the checked number is bits 15:0 of the value. -/
theorem lengthWritesAreChecked : Obligations.LengthWritesAreChecked := by
  have hmask (v : Word) := setWidth_extractLsb'_eq_and v (n := 16) (by decide)
  have hlen (v : Word) : (v.extractLsb' 0 16).toNat = (v &&& 0x0000FFFF).toNat :=
    toNat_extractLsb'_eq_and v (by decide)
  refine ⟨fun s v rest hp => ?_, fun s v rest hp hbusy => ?_⟩ <;> rw [← hlen, step_of_wrEvent (by decide) hp]
  · refine ⟨fun hv => ?_, fun hv => ?_⟩
    · exact congrArg (attempt _) (writeWlen_range _ hv)
    · exact ⟨_, congrArg (attempt _) (writeWlen_ok _ hv), hmask v, rfl⟩
  · refine ⟨fun hv => ?_, fun hv => ?_⟩
    · exact congrArg (attempt _) (writeTxlen_range (s := { s with pending := rest, resp := .written }) hbusy hv)
    · exact ⟨_, congrArg (attempt _) (writeTxlen_ok (s := { s with pending := rest, resp := .written }) hbusy hv), hmask v, rfl⟩

end Sys2Proof.Machine

namespace Sys2Proof.Machine

/-! ## The word of a decoded command (30_encoding.md R65, R66) -/

/-- A word is its three fields. -/
theorem word_eq_fields (w : Word) : w = rsvField w ++ (immField w ++ opField w : BitVec 16) := by
  apply BitVec.eq_of_getLsbD_eq
  intro j hj
  simp only [rsvField, immField, opField, BitVec.getLsbD_append, BitVec.getLsbD_extractLsb']
  by_cases h16 : j < 16
  · by_cases h8 : j < 8
    · simp [h16, h8]
    · simp [h16, h8, show j - 8 < 8 by omega, show 8 + (j - 8) = j by omega]
  · simp [h16, show j - 16 < 16 by omega, show 16 + (j - 16) = j by omega]

/-- The three checks of a legal word (30_encoding.md R69). -/
theorem decode_ok {w : Word} {i : Instr} (h : decode w = .ok i) :
    rsvField w = 0 ∧ instrOf (opField w) (immField w) = some i ∧ i.immClass.admits (immField w) = true := by
  rw [decode] at h
  split at h
  · cases h
  · rename_i hrsv
    split at h
    · cases h
    · rename_i j hj
      split at h
      · rename_i hadm
        cases h
        exact ⟨not_not.1 hrsv, hj, hadm⟩
      · cases h

/-- The table of R68 read backwards: the command's operation code, and its operand where it has one. -/
theorem instrOf_eq_some {op imm : Byte} {i : Instr} (h : instrOf op imm = some i) :
    op = i.opcode ∧ (i.imm8 = imm ∨ (i.immClass = .zero ∧ i.imm8 = 0)) := by
  rw [instrOf] at h
  split at h <;> cases h <;> rename_i hop <;>
    exact ⟨BitVec.eq_of_toNat_eq hop, by simp [Instr.imm8, Instr.immClass]⟩

/-- A legal word is the encoding of the command it stands for. -/
theorem encode_of_decode_ok {w : Word} {i : Instr} (h : decode w = .ok i) : encode i = w := by
  obtain ⟨hrsv, hinstr, hadm⟩ := decode_ok h
  obtain ⟨hop, himm⟩ := instrOf_eq_some hinstr
  have himm8 : i.imm8 = immField w := by
    rcases himm with himm | ⟨hzero, h0⟩
    · exact himm
    · rw [hzero] at hadm
      rw [h0]
      exact (of_decide_eq_true hadm).symm
  rw [word_eq_fields w, hrsv, hop, ← himm8, encode]

/-! ## What a command leaves unchanged -/

/-- The commands that may write AOUT: the address commands and SRESET (10_state.md R30). -/
def WritesAout (i : Instr) : Prop := i = .sreset ∨ i = .aenc ∨ i = .aswap ∨ ∃ k, i = .akey k

/-- The sticky bits of STATUS are as before (10_state.md R24). -/
structure SameSticky (s t : State) : Prop where
  txdone : t.txdone = s.txdone
  ovr : t.ovr = s.ovr
  long : t.long = s.long

/-- The frame that the commands share. -/
structure EffectFrame (i : Instr) (s t : State) : Prop where
  resets : t.resets = s.resets
  sticky : i ≠ .sreset → SameSticky s t
  aout : ¬ WritesAout i → t.aoutWord = s.aoutWord
  mem : i ≠ .fbuild → i ≠ .rxpop → t.mem = s.mem

/-- The frame of a command that has none of the three effects. -/
theorem EffectFrame.of_kept {i : Instr} {s t : State} (hresets : t.resets = s.resets) (hsticky : SameSticky s t)
    (haout : t.aoutWord = s.aoutWord) (hmem : t.mem = s.mem) : EffectFrame i s t :=
  ⟨hresets, fun _ => hsticky, fun _ => haout, fun _ _ => hmem⟩

theorem effect_frame {i : Instr} {s t : State} (ht : Effect i s t) : EffectFrame i s t := by
  cases i with
  | sreset =>
    simp only [Effect] at ht
    subst ht
    exact ⟨rfl, fun hi => absurd rfl hi, fun hi => absurd (.inl rfl) hi, fun _ _ => rfl⟩
  | aenc =>
    simp only [Effect] at ht
    subst ht
    exact ⟨rfl, fun _ => ⟨rfl, rfl, rfl⟩, fun hi => absurd (.inr (.inl rfl)) hi, fun _ _ => rfl⟩
  | aswap =>
    obtain rfl | ⟨-, rfl⟩ := ht <;>
      exact ⟨rfl, fun _ => ⟨rfl, rfl, rfl⟩, fun hi => absurd (.inr (.inr (.inl rfl))) hi, fun _ _ => rfl⟩
  | akey k =>
    obtain ⟨v, rfl⟩ | rfl := ht <;>
      exact ⟨rfl, fun _ => ⟨rfl, rfl, rfl⟩, fun hi => absurd (.inr (.inr (.inr ⟨k, rfl⟩))) hi, fun _ _ => rfl⟩
  | fbuild =>
    obtain ⟨e, -, rfl⟩ | ⟨-, -, -, -, -, -, rfl⟩ := ht <;>
      exact ⟨rfl, fun _ => ⟨rfl, rfl, rfl⟩, fun _ => rfl, fun hi => absurd rfl hi⟩
  | rxpop =>
    obtain ⟨-, rfl⟩ | ⟨line, rest, -, rfl⟩ := ht <;>
      exact ⟨rfl, fun _ => ⟨rfl, rfl, rfl⟩, fun _ => rfl, fun _ hi => absurd rfl hi⟩
  | nop | c16init | c16byte b | c8init | c8byte x | fvalid | rxflush =>
    simp only [Effect] at ht
    subst ht
    exact .of_kept rfl ⟨rfl, rfl, rfl⟩ rfl rfl
  | c16hex =>
    obtain ⟨e, -, rfl⟩ | ⟨-, -, -, rfl⟩ := ht <;> exact .of_kept rfl ⟨rfl, rfl, rfl⟩ rfl rfl
  | c8text =>
    obtain rfl | ⟨-, rfl⟩ := ht <;> exact .of_kept rfl ⟨rfl, rfl, rfl⟩ rfl rfl
  | txstart =>
    obtain ⟨-, rfl⟩ | ⟨-, rfl⟩ := ht <;> exact .of_kept rfl ⟨rfl, rfl, rfl⟩ rfl rfl
  | mack =>
    obtain rfl | ⟨p, rfl⟩ := ht <;> exact .of_kept rfl ⟨rfl, rfl, rfl⟩ rfl rfl
  | mans v =>
    obtain rfl | rfl | ⟨p, a, b, rfl⟩ | ⟨p, rfl⟩ := ht <;>
      exact .of_kept rfl ⟨rfl, rfl, rfl⟩ rfl rfl
  | chunk n =>
    obtain rfl | ⟨k, -, rfl⟩ | ⟨p, rfl⟩ := ht <;>
      exact .of_kept rfl ⟨rfl, rfl, rfl⟩ rfl rfl
  | hexget n =>
    obtain ⟨e, -, rfl⟩ | ⟨v, rfl⟩ := ht <;> exact .of_kept rfl ⟨rfl, rfl, rfl⟩ rfl rfl

/-! ## Who writes AOUT -/

theorem aoutWord_txeStep (s : State) : (txeStep s).aoutWord = s.aoutWord := by
  rcases txeStep_cases s with ⟨-, ht⟩ | ⟨-, -, ht⟩ | ⟨-, -, ht⟩ <;> rw [ht] <;> rfl

theorem aoutWord_rxeStep (c : Byte) (s : State) : (rxeStep c s).aoutWord = s.aoutWord := by
  rcases rxeStep_cases c s with ⟨-, ht⟩ | ⟨-, -, -, ht⟩ | ⟨-, -, -, -, ht⟩ | ⟨-, -, -, -, -, ht⟩ |
    ⟨-, -, -, -, -, ht⟩ | ⟨-, -, -, ht⟩ | ⟨-, -, -, -, ht⟩ | ⟨-, -, -, -, ht⟩ <;> rw [ht] <;> rfl

/-- AOUT is read-only to the host, and so is it to every other register's write (10_state.md R30). -/
theorem aoutWord_writeReg (r : Reg) (v : Word) (s : State) :
    (settled s (writeReg r v s)).aoutWord = s.aoutWord := by
  rcases writeReg_cases r v s with ⟨e, -, hr⟩ | hr | ⟨c, hr⟩ | ⟨c, hr⟩ | ⟨d, o, l, -, -, -, hr⟩ | hr | ⟨c, hr⟩ | ⟨c, hr⟩ |
    ⟨a, hr⟩ | ⟨f, hr⟩ | ⟨b, hr⟩ | ⟨b, hr⟩ | ⟨n, -, hr⟩ | ⟨n, -, -, hr⟩ | hr | ⟨p, hr⟩ <;> rw [hr] <;> rfl

/-- Settles O59: of all that a step can do, only these cases touch AOUT. -/
theorem onlyAddressCommandsWriteAout : Obligations.OnlyAddressCommandsWriteAout := by
  intro s t hstep hne
  cases step_by hstep with
  | hardReset rest hp => exact ⟨rest, .inl hp⟩
  | command w i _ rest hp hw ht =>
    refine ⟨rest, .inr ⟨w, i, hp, hw, ?_⟩⟩
    by_contra hi
    exact hne ((effect_frame ht).aout hi).symm
  | idle hp => exact absurd (aoutWord_txeStep s).symm hne
  | txe rest hp => exact absurd (aoutWord_txeStep { s with pending := rest }).symm hne
  | rxChar c rest hp => exact absurd (aoutWord_rxeStep c { s with pending := rest }).symm hne
  | answer a r rest hp => exact absurd rfl hne
  | illegal w e rest hp hw => exact absurd rfl hne
  | register r v rest hp => exact absurd (aoutWord_writeReg r v { s with pending := rest, resp := .written }).symm hne
  | txbuf a i b rest hp hi =>
    rcases writeTxbuf_cases i b { s with pending := rest, resp := .written } with h | h <;>
      exact absurd (by rw [h]; rfl) hne
  | wbuf a i b rest hp hi => exact absurd rfl hne

/-! ## Who sets and clears TXDONE, OVR and LONG (10_state.md R24) -/

/-- No register but STATUS has the sticky bits. -/
theorem writeReg_sameSticky {r : Reg} (hr : r ≠ .status) (v : Word) (s : State) :
    SameSticky s (settled s (writeReg r v s)) := by
  cases r with
  | status => exact absurd rfl hr
  | ctrl =>
    change SameSticky s (writeCtrl v s)
    rcases writeCtrl_cases v s with h | h <;> rw [h] <;> exact ⟨rfl, rfl, rfl⟩
  | wlen =>
    change SameSticky s (settled s (writeWlen v s))
    rcases writeWlen_cases v s with h | ⟨-, h⟩ <;> rw [h] <;> exact ⟨rfl, rfl, rfl⟩
  | txlen =>
    change SameSticky s (settled s (writeTxlen v s))
    rcases writeTxlen_cases v s with ⟨e, h⟩ | ⟨-, -, h⟩ <;> rw [h] <;> exact ⟨rfl, rfl, rfl⟩
  | _ => exact ⟨rfl, rfl, rfl⟩

/-- All that a step can do to the sticky bits, each case with its cause. -/
inductive StickyStep (s t : State) : Prop
  | kept (h : SameSticky s t)
  /-- The terminator is emitted (44_link.md R121). -/
  | sent (htxdone : t.txdone = true) (hovr : t.ovr = s.ovr) (hlong : t.long = s.long) (hbusy : s.txbusy = true)
    (hidle : t.txbusy = false) (hline : t.txLine = s.txLine ++ [s.cfg.term])
  /-- A completed line finds RXQ full (44_link.md R127). -/
  | overrun (htxdone : t.txdone = s.txdone) (hovr : t.ovr = true) (hlong : t.long = s.long) (hen : s.rxen = true)
    (hdiscard : s.discard = false) (hpart : s.part ≠ []) (hfull : s.rxq.length = s.cfg.rxqDepth) (hrxq : t.rxq = s.rxq)
    (hp : ∃ rest, s.pending = .rxChar s.cfg.term :: rest)
  /-- A line exceeds MAX_LINE (44_link.md R127). -/
  | overlong (htxdone : t.txdone = s.txdone) (hovr : t.ovr = s.ovr) (hlong : t.long = true) (hen : s.rxen = true)
    (hdiscard : s.discard = false) (hpart : maxLine ≤ s.part.length) (hdrop : t.discard = true)
    (hp : ∃ c rest, c ≠ s.cfg.term ∧ s.pending = .rxChar c :: rest)
  /-- A STATUS write clears the bits that are 1 in its value. -/
  | written (v : Word) (rest : List Event) (hp : s.pending = wrEvent s.cfg .status v :: rest)
    (htxdone : t.txdone = (s.txdone && !v.getLsbD 2)) (hovr : t.ovr = (s.ovr && !v.getLsbD 4))
    (hlong : t.long = (s.long && !v.getLsbD 5))
  | reset (rest : List Event) (hp : s.pending = .hardReset :: rest ∨ s.pending = cmdWrite s.cfg 0x00000001 :: rest)
    (htxdone : t.txdone = false) (hovr : t.ovr = false) (hlong : t.long = false)

/-- TXE's step, with `u` as `s` after the event is taken. -/
theorem stickyStep_txe {s u : State} (hu : u = { s with pending := u.pending }) : StickyStep s (txeStep u) := by
  rw [hu]
  rcases txeStep_cases { s with pending := u.pending } with ⟨-, ht⟩ | ⟨-, -, ht⟩ | ⟨hbusy, -, ht⟩ <;> rw [ht]
  · exact .kept ⟨rfl, rfl, rfl⟩
  · exact .kept ⟨rfl, rfl, rfl⟩
  · exact .sent rfl rfl rfl hbusy rfl rfl

theorem stickyStep_rxe {s : State} {c : Byte} {rest : List Event} (hp : s.pending = .rxChar c :: rest) :
    StickyStep s (rxeStep c { s with pending := rest }) := by
  rcases rxeStep_cases c { s with pending := rest } with ⟨-, ht⟩ | ⟨-, -, -, ht⟩ | ⟨-, -, -, -, ht⟩ |
    ⟨hen, hc, hdiscard, hpart, hfull, ht⟩ | ⟨-, -, -, -, -, ht⟩ | ⟨-, -, -, ht⟩ | ⟨-, -, -, -, ht⟩ |
    ⟨hen, hc, hdiscard, hpart, ht⟩ <;> rw [ht]
  case inr.inr.inr.inl => exact .overrun rfl rfl rfl hen hdiscard hpart hfull rfl ⟨rest, hc ▸ hp⟩
  case inr.inr.inr.inr.inr.inr.inr => exact .overlong rfl rfl rfl hen hdiscard hpart rfl ⟨c, rest, hc, hp⟩
  all_goals exact .kept ⟨rfl, rfl, rfl⟩

/-- Every step is one of these. -/
theorem stickyStep {s t : State} (h : step s = .next t) : StickyStep s t := by
  cases step_by h with
  | idle hp => exact stickyStep_txe rfl
  | txe rest hp => exact stickyStep_txe rfl
  | rxChar c rest hp => exact stickyStep_rxe hp
  | hardReset rest hp => exact .reset rest (.inl hp) rfl rfl rfl
  | answer a r rest hp => exact .kept ⟨rfl, rfl, rfl⟩
  | illegal w e rest hp hw => exact .kept ⟨rfl, rfl, rfl⟩
  | command w i _ rest hp hw ht =>
    by_cases hi : i = .sreset
    · subst hi
      obtain rfl : encode .sreset = w := encode_of_decode_ok hw
      rw [show t = softReset _ from ht]
      exact .reset rest (.inr hp) rfl rfl rfl
    · obtain ⟨hd, ho, hl⟩ := (effect_frame ht).sticky hi
      exact .kept ⟨hd, ho, hl⟩
  | register r v rest hp =>
    by_cases hr : r = .status
    · subst hr
      exact .written v rest hp rfl rfl rfl
    · obtain ⟨hd, ho, hl⟩ := writeReg_sameSticky hr v { s with pending := rest, resp := .written }
      exact .kept ⟨hd, ho, hl⟩
  | txbuf a i b rest hp hi =>
    rcases writeTxbuf_cases i b { s with pending := rest, resp := .written } with h | h <;> rw [h] <;>
      exact .kept ⟨rfl, rfl, rfl⟩
  | wbuf a i b rest hp hi => exact .kept ⟨rfl, rfl, rfl⟩

section
variable {s t : State} (h : StickyStep s t)
include h

theorem StickyStep.txdone_set (h0 : s.txdone = false) (h1 : t.txdone = true) :
    s.txbusy = true ∧ t.txbusy = false ∧ t.txLine = s.txLine ++ [s.cfg.term] := by
  cases h with
  | sent _ _ _ hbusy hidle hline => exact ⟨hbusy, hidle, hline⟩
  | kept h => simp [h.txdone, h0] at h1
  | overrun htxdone | overlong htxdone => simp [htxdone, h0] at h1
  | written v rest hp htxdone | reset rest hp htxdone => simp [htxdone, h0] at h1

theorem StickyStep.ovr_set (h0 : s.ovr = false) (h1 : t.ovr = true) :
    s.rxen = true ∧ s.discard = false ∧ s.part ≠ [] ∧ s.rxq.length = s.cfg.rxqDepth ∧ t.rxq = s.rxq ∧
      ∃ rest, s.pending = .rxChar s.cfg.term :: rest := by
  cases h with
  | overrun _ _ _ hen hdiscard hpart hfull hrxq hp => exact ⟨hen, hdiscard, hpart, hfull, hrxq, hp⟩
  | kept h => simp [h.ovr, h0] at h1
  | sent _ hovr | overlong _ hovr => simp [hovr, h0] at h1
  | written v rest hp _ hovr | reset rest hp _ hovr => simp [hovr, h0] at h1

theorem StickyStep.long_set (h0 : s.long = false) (h1 : t.long = true) :
    s.rxen = true ∧ s.discard = false ∧ 512 ≤ s.part.length ∧ t.discard = true ∧
      ∃ c rest, c ≠ s.cfg.term ∧ s.pending = .rxChar c :: rest := by
  cases h with
  | overlong _ _ _ hen hdiscard hpart hdrop hp => exact ⟨hen, hdiscard, hpart, hdrop, hp⟩
  | kept h => simp [h.long, h0] at h1
  | sent _ _ hlong | overrun _ _ hlong => simp [hlong, h0] at h1
  | written v rest hp _ _ hlong | reset rest hp _ _ hlong => simp [hlong, h0] at h1

/-- A bit that falls was cleared by a reset, or by a STATUS write with 1 in its place. -/
theorem StickyStep.cleared {k : Nat} {bit : State → Bool}
    (hbit : (k = 2 ∧ bit = State.txdone) ∨ (k = 4 ∧ bit = State.ovr) ∨ (k = 5 ∧ bit = State.long))
    (h0 : bit s = true) (h1 : bit t = false) :
    ∃ rest, s.pending = .hardReset :: rest ∨ s.pending = cmdWrite s.cfg 0x00000001 :: rest ∨
      ∃ v : Word, v.getLsbD k = true ∧ s.pending = wrEvent s.cfg .status v :: rest := by
  cases h with
  | reset rest hp => exact ⟨rest, hp.imp_right .inl⟩
  | written v rest hp hd ho hl =>
    refine ⟨rest, .inr (.inr ⟨v, ?_, hp⟩)⟩
    rcases hbit with ⟨rfl, rfl⟩ | ⟨rfl, rfl⟩ | ⟨rfl, rfl⟩ <;> simp_all
  | kept h => obtain ⟨hd, ho, hl⟩ := h; rcases hbit with ⟨-, rfl⟩ | ⟨-, rfl⟩ | ⟨-, rfl⟩ <;> simp_all
  | sent hd ho hl | overrun hd ho hl | overlong hd ho hl =>
    rcases hbit with ⟨-, rfl⟩ | ⟨-, rfl⟩ | ⟨-, rfl⟩ <;> simp_all

end

/-- Settles O21: a bit that changed names its cause. -/
theorem stickyStatusBitsHaveOnlyTheirCauses : Obligations.StickyStatusBitsHaveOnlyTheirCauses :=
  fun _ _ hstep =>
    have h := stickyStep hstep
    ⟨h.txdone_set, h.ovr_set, h.long_set, fun _ _ hbit => h.cleared hbit⟩

end Sys2Proof.Machine

namespace Sys2Proof.Machine

/-! ## Commands read WBUF only within [0, WLEN) (10_state.md R46) -/

/-- From `m`, command `i` answers what it answers from the memory of `s`, and every byte it stores is the same. -/
def AnswersAlike (i : Instr) (s t : State) (m : Memory) : Prop :=
  ∃ m', exec i { s with mem := m } = .next { t with mem := m' } ∧
    ∀ y, State.cell { t with mem := m' } y = t.cell y ∨
      (State.cell { t with mem := m' } y = State.cell { s with mem := m } y ∧ t.cell y = s.cell y)

/-- Storing the same text in both memories: inside it both read the text, outside it each reads as before. -/
theorem answersAlike_of_insertAll {i : Instr} {s t : State} {m : Memory} {x : Nat} {txt : Text}
    (hresets : t.resets = s.resets) (hmem : t.mem = Memory.insertAll s.mem x txt)
    (h : exec i { s with mem := m } = .next { t with mem := Memory.insertAll m x txt }) : AnswersAlike i s t m := by
  refine ⟨_, h, fun y => ?_⟩
  simp only [State.cell, hmem, hresets]
  by_cases hy : x ≤ y ∧ y < x + txt.length
  · obtain ⟨k, rfl⟩ := Nat.exists_eq_add_of_le hy.1
    left
    rw [Memory.lookup_insertAll_inside txt m x k (by omega), Memory.lookup_insertAll_inside txt s.mem x k (by omega)]
  · right
    rw [Memory.lookup_insertAll_outside txt m x y (by omega), Memory.lookup_insertAll_outside txt s.mem x y (by omega)]
    exact ⟨rfl, rfl⟩

theorem answersAlike_of_mem_eq {i : Instr} {s t : State} {m : Memory} (hresets : t.resets = s.resets)
    (hmem : t.mem = s.mem) (h : exec i { s with mem := m } = .next { t with mem := m }) : AnswersAlike i s t m :=
  answersAlike_of_insertAll (x := 0) (txt := []) hresets hmem h

/-- Two commands that end alike, up to the memory `m'` that the second leaves when it succeeds. -/
theorem attempt_map_withMem {s t : State} {m m' : Memory} {r r' : Except ErrCode State}
    (hr : r' = r.map fun u => { u with mem := m' }) (h : attempt s r = .next t) :
    (r = .ok t ∧ attempt { s with mem := m } r' = .next { t with mem := m' }) ∨
      (t.mem = s.mem ∧ attempt { s with mem := m } r' = .next { t with mem := m }) := by
  subst hr
  rcases attempt_cases h with rfl | ⟨e, rfl, rfl⟩
  · exact .inl ⟨rfl, rfl⟩
  · exact .inr ⟨rfl, rfl⟩

theorem attempt_withMem {s t : State} {m : Memory} {r r' : Except ErrCode State}
    (hr : r' = r.map fun u => { u with mem := m }) (h : attempt s r = .next t) :
    attempt { s with mem := m } r' = .next { t with mem := m } :=
  (attempt_map_withMem hr h).elim And.right And.right

/-- A command that succeeds has passed its first check. -/
theorem eq_ok_of_ite_error {c : Prop} [Decidable c] {e : ErrCode} {r : Except ErrCode State} {t : State}
    (h : (if c then .error e else r) = .ok t) : r = .ok t := by
  split at h
  · cases h
  · exact h

/-- Two checks on the same condition go on alike, if what follows does so where the condition fails. -/
theorem ite_eq_map_ite {f : State → State} {c c' : Prop} [Decidable c] [Decidable c'] {a a' b b' : Except ErrCode State}
    (hc : c' ↔ c) (ha : a' = a.map f) (hb : ¬ c → b' = b.map f) :
    (if c' then a' else b') = (if c then a else b).map f := by
  by_cases h : c
  · rw [if_pos h, if_pos (hc.2 h), ha]
  · rw [if_neg h, if_neg (mt hc.1 h), hb h]

section
variable {s : State} {m : Memory} (hm : ∀ k, k < s.wlen.toNat → State.wbuf { s with mem := m } k = s.wbuf k)
include hm

theorem wbufText_withMem {a n : Nat} (h : a + n ≤ s.wlen.toNat) :
    State.wbufText { s with mem := m } a n = s.wbufText a n :=
  wbufText_congr fun i hi => hm (a + i) (by omega)

theorem line_withMem : State.line { s with mem := m } = s.line := wbufText_withMem hm (by simp)

/-- A window that passes the RANGE check. -/
theorem windowText_withMem {n : Nat} (h : ¬ (!s.windowIn n) = true) :
    State.windowText { s with mem := m } n = s.windowText n :=
  wbufText_withMem hm (by simpa [State.windowIn] using h)

theorem window_withMem (h : ¬ (!s.windowIn s.blen.toNat) = true) : State.window { s with mem := m } = s.window :=
  windowText_withMem hm h

/-- A command that stores nothing answers alike from both memories: it reads text only where its checks have put the window
inside the line. -/
theorem exec_withMem {i : Instr} {t : State} (hf : i ≠ .fbuild) (hr : i ≠ .rxpop) (h : exec i s = .next t) :
    exec i { s with mem := m } = .next { t with mem := m } := by
  cases i with
  | fbuild => exact absurd rfl hf
  | rxpop => exact absurd rfl hr
  | nop | sreset | c16init | c16byte b | c8init | c8byte x | aenc | rxflush => exact attempt_withMem rfl h
  | akey k =>
    refine attempt_withMem ?_ h
    rw [apply_ite Except.ok, apply_ite Except.ok]
    exact ite_eq_map_ite Iff.rfl rfl fun _ => rfl
  | aswap | txstart => exact attempt_withMem (ite_eq_map_ite Iff.rfl rfl fun _ => rfl) h
  | fvalid => exact attempt_withMem (by rw [line_withMem hm]; rfl) h
  | mack =>
    refine attempt_withMem ?_ h
    rw [line_withMem hm]
    cases find s.line (ackSignal s.func) <;> rfl
  | mans v =>
    refine attempt_withMem (ite_eq_map_ite Iff.rfl rfl fun _ => ?_) h
    have hwire : State.wireAddr { s with mem := m } = s.wireAddr := rfl
    rw [line_withMem hm, hwire]
    cases find s.line (answerSignal (variantOf v) s.wireAddr) with
    | none => rfl
    | some p =>
      refine congrArg Except.ok ?_
      simp only [answerHit, line_withMem hm]
      split_ifs <;> rfl
  | c16hex =>
    refine attempt_withMem (ite_eq_map_ite Iff.rfl rfl fun hin => ite_eq_map_ite Iff.rfl rfl fun _ => ?_) h
    rw [window_withMem hm hin]
    exact ite_eq_map_ite Iff.rfl rfl fun _ => rfl
  | c8text =>
    refine attempt_withMem (ite_eq_map_ite Iff.rfl rfl fun hin => ?_) h
    rw [window_withMem hm hin]
    rfl
  | hexget n =>
    refine attempt_withMem (ite_eq_map_ite Iff.rfl rfl fun hin => ?_) h
    rw [windowText_withMem hm hin]
    exact ite_eq_map_ite Iff.rfl rfl fun _ => rfl
  | chunk n =>
    refine attempt_withMem (ite_eq_map_ite Iff.rfl rfl fun hle => ite_eq_map_ite Iff.rfl rfl fun _ =>
      ite_eq_map_ite Iff.rfl rfl fun hlen => ?_) h
    have hin : s.cptr.toNat + countOf n ≤ s.wlen.toNat := by
      dsimp only at hle hlen
      omega
    rw [wbufText_withMem hm hin]
    exact ite_eq_map_ite Iff.rfl rfl fun _ => rfl

theorem builtFrame_withMem (h : ¬ (!s.windowIn s.blen.toNat) = true) :
    State.builtFrame { s with mem := m } = s.builtFrame := by
  rw [State.builtFrame, window_withMem hm h]
  rfl

/-- FBUILD assembles the same frame from both memories, and stores it in each. -/
theorem exec_fbuild_withMem {t : State} (h : exec .fbuild s = .next t) :
    (t.mem = Memory.insertAll s.mem txbufBase s.builtFrame ∧
      exec .fbuild { s with mem := m } = .next { t with mem := Memory.insertAll m txbufBase s.builtFrame }) ∨
    (t.mem = s.mem ∧ exec .fbuild { s with mem := m } = .next { t with mem := m }) := by
  refine (attempt_map_withMem ?_ h).imp_left (And.imp_left fun hok => ?_)
  · refine ite_eq_map_ite Iff.rfl rfl fun _ => ite_eq_map_ite Iff.rfl rfl fun hin => ?_
    rw [window_withMem hm hin, builtFrame_withMem hm hin]
    exact ite_eq_map_ite Iff.rfl rfl fun _ => ite_eq_map_ite Iff.rfl rfl fun _ => ite_eq_map_ite Iff.rfl rfl fun _ =>
      ite_eq_map_ite Iff.rfl rfl fun _ => rfl
  · have hstored := eq_ok_of_ite_error (eq_ok_of_ite_error (eq_ok_of_ite_error
      (eq_ok_of_ite_error (eq_ok_of_ite_error (eq_ok_of_ite_error hok)))))
    cases hstored
    rfl

theorem fbuild_answersAlike {t : State} (h : exec .fbuild s = .next t) : AnswersAlike .fbuild s t m := by
  have hresets := (effect_frame (exec_effect h)).resets
  rcases exec_fbuild_withMem hm h with ⟨hmem, hexec⟩ | ⟨hmem, hexec⟩
  · exact answersAlike_of_insertAll hresets hmem hexec
  · exact answersAlike_of_mem_eq hresets hmem hexec

end

theorem exec_rxpop_nil {s : State} (hq : s.rxq = []) : exec .rxpop s = .next (raiseErr .empty s) := by
  simp only [exec, execRxpop, hq, attempt_error]

theorem exec_rxpop_cons {s : State} {line : Text} {rest : List Text} (hq : s.rxq = line :: rest) :
    exec .rxpop s = .next { s.setCells wbufBase line with rxq := rest, wlen := BitVec.ofNat 16 line.length } := by
  simp only [exec, execRxpop, hq, attempt_ok]

/-- RXPOP stores the oldest line, which stands in RXQ and not in the buffers. -/
theorem rxpop_answersAlike {s t : State} (m : Memory) (h : exec .rxpop s = .next t) : AnswersAlike .rxpop s t m := by
  cases hq : s.rxq with
  | nil =>
    rw [exec_rxpop_nil hq] at h
    cases h
    exact answersAlike_of_mem_eq rfl rfl (exec_rxpop_nil (s := { s with mem := m }) hq)
  | cons line rest =>
    rw [exec_rxpop_cons hq] at h
    cases h
    exact answersAlike_of_insertAll rfl rfl (exec_rxpop_cons (s := { s with mem := m }) hq)

/-- Settles O60: only FBUILD and RXPOP store, and each stores a text that both memories give alike. -/
theorem commandsReadOnlyTheValidText : Obligations.CommandsReadOnlyTheValidText := by
  intro i s t m hm h
  by_cases hf : i = .fbuild
  · subst hf
    exact fbuild_answersAlike hm h
  · by_cases hr : i = .rxpop
    · subst hr
      exact rxpop_answersAlike m h
    · have hframe := effect_frame (exec_effect h)
      exact answersAlike_of_mem_eq hframe.resets (hframe.mem hf hr) (exec_withMem hm hf hr h)

end Sys2Proof.Machine

namespace Sys2Proof.Machine

/-! ## Reads (20_memory.md R55, R56) -/

/-- A read that the bus accepts is answered with the target's value and has no other effect. -/
theorem step_of_read {s : State} {addr : Nat} {n : Width} {u : Target} {rest : List Event}
    (hu : busTarget s.cfg addr n = .ok u) (hp : s.pending = .host (.read addr n) :: rest) :
    step s = .next { s with pending := rest, resp := .data (s.readTarget u) } := by
  have hread : State.readTarget { s with pending := rest } u = s.readTarget u := by
    cases u with
    | reg r => cases r <;> rfl
    | txbuf i | wbuf i => rfl
  refine step_of_done hp ?_
  simp only [serve, hostAccess, hu, hread, respond]

/-- A byte read of TXBUF or WBUF answers the cell. -/
theorem step_of_bufferRead {s : State} {off : Nat} {rest : List Event} (hlo : 0x100 ≤ off) (hhi : off ≤ 0x3FF)
    (hp : s.pending = .host (.read (s.cfg.base + off) .byte) :: rest) :
    step s = .next { s with pending := rest, resp := .data ((s.cell off).setWidth 32) } := by
  by_cases hbuf : off < 0x200
  · obtain ⟨i, rfl⟩ := Nat.exists_eq_add_of_le hlo
    exact step_of_read (busTarget_txbuf s.cfg i (by simp only [txbufSize]; omega)) hp
  · obtain ⟨i, rfl⟩ := Nat.exists_eq_add_of_le (Nat.not_lt.1 hbuf)
    exact step_of_read (busTarget_wbuf s.cfg i (by simp only [wbufSize]; omega)) hp

/-- Settles O14: the map is read off `Reg.offset`, and each read is one that the bus accepts. -/
theorem readsAnswerAndChangeNothing : Obligations.ReadsAnswerAndChangeNothing := by
  refine ⟨fun r off hmem => ?_, fun s i => ⟨rfl, rfl⟩, fun s r rest hp => step_of_rdEvent hp,
    fun s off rest => step_of_bufferRead⟩
  have hmap := (List.all_eq_true (p := fun row : Reg × Nat => decide (row.1.offset = row.2))).1 (by decide) (r, off) hmem
  obtain rfl : r.offset = off := of_decide_eq_true hmap
  exact ⟨rfl, fun s rest hp => step_of_rdEvent hp⟩

/-! ## Refused and accepted accesses (20_memory.md R55, 60_exceptions.md R168) -/

/-- The accesses that the spec lets succeed are those that reach something. -/
theorem accessSucceeds_iff {cfg : Config} {a : Access} :
    accessSucceeds cfg a ↔ ∃ u, busTarget cfg a.place.1 a.place.2 = .ok u := by
  rw [busTarget]
  constructor
  · rintro ⟨hbase, hallowed⟩
    rw [if_neg (Nat.not_lt.2 hbase)]
    exact offsetTarget_of_allowed hallowed
  · rintro ⟨u, hu⟩
    split at hu
    · cases hu
    · rename_i hbase
      exact ⟨Nat.not_lt.1 hbase, (offsetTarget_ok hu).1⟩

theorem busTarget_of_refused {cfg : Config} {a : Access} (h : ¬ accessSucceeds cfg a) :
    busTarget cfg a.place.1 a.place.2 = .error .busError := by
  cases hu : busTarget cfg a.place.1 a.place.2 with
  | ok u => exact absurd (accessSucceeds_iff.2 ⟨u, hu⟩) h
  | error f => rw [busTarget_error hu]

theorem step_of_refused {s : State} {a : Access} {rest : List Event} (h : ¬ accessSucceeds s.cfg a)
    (hp : s.pending = .host a :: rest) : step s = .next { s with pending := rest, resp := .error .busError } := by
  have hu := busTarget_of_refused h
  refine step_of_done hp ?_
  cases a with
  | read addr n | write addr n v =>
    simp only [Access.place] at hu
    simp only [serve, hostAccess, hu, respond]

/-- No command changes the answer to the access that ran it, SRESET included. -/
theorem effect_resp {i : Instr} {s t : State} (ht : Effect i s t) : t.resp = s.resp := by
  cases i with
  | nop | sreset | c16init | c16byte b | c8init | c8byte x | aenc | fvalid | rxflush =>
    simp only [Effect] at ht
    subst ht
    rfl
  | c16hex => obtain ⟨e, -, rfl⟩ | ⟨-, -, -, rfl⟩ := ht <;> rfl
  | c8text | aswap => obtain rfl | ⟨-, rfl⟩ := ht <;> rfl
  | akey k => obtain ⟨v, rfl⟩ | rfl := ht <;> rfl
  | fbuild => obtain ⟨e, -, rfl⟩ | ⟨-, -, -, -, -, -, rfl⟩ := ht <;> rfl
  | mack => obtain rfl | ⟨p, rfl⟩ := ht <;> rfl
  | mans v => obtain rfl | rfl | ⟨p, a, b, rfl⟩ | ⟨p, rfl⟩ := ht <;> rfl
  | chunk n => obtain rfl | ⟨k, -, rfl⟩ | ⟨p, rfl⟩ := ht <;> rfl
  | hexget n => obtain ⟨e, -, rfl⟩ | ⟨v, rfl⟩ := ht <;> rfl
  | txstart => obtain ⟨-, rfl⟩ | ⟨-, rfl⟩ := ht <;> rfl
  | rxpop => obtain ⟨-, rfl⟩ | ⟨line, rest, -, rfl⟩ := ht <;> rfl

/-- A command ends in a next state, with the answer as it was. -/
theorem exec_keeps_resp (i : Instr) (s : State) : ∃ t, exec i s = .next t ∧ t.resp = s.resp := by
  obtain ⟨r, hr⟩ := exec_is_attempt i s
  exact ⟨settled s r, hr, effect_resp (exec_effect hr)⟩

theorem resp_writeReg (r : Reg) (v : Word) (s : State) : (settled s (writeReg r v s)).resp = s.resp := by
  rcases writeReg_cases r v s with ⟨e, -, hr⟩ | hr | ⟨c, hr⟩ | ⟨c, hr⟩ | ⟨d, o, l, -, -, -, hr⟩ | hr | ⟨c, hr⟩ | ⟨c, hr⟩ |
    ⟨a, hr⟩ | ⟨f, hr⟩ | ⟨b, hr⟩ | ⟨b, hr⟩ | ⟨n, -, hr⟩ | ⟨n, -, -, hr⟩ | hr | ⟨p, hr⟩ <;> rw [hr] <;> rfl

theorem resp_writeTxbuf (i : Nat) (b : Byte) (s : State) : (settled s (writeTxbuf i b s)).resp = s.resp := by
  rcases writeTxbuf_cases i b s with hr | hr <;> rw [hr] <;> rfl

/-- A write that the bus accepts is answered as written, also where the block raises an Err (60_exceptions.md R165). -/
theorem step_of_write {s : State} {addr : Nat} {n : Width} {v : Word} {u : Target} {rest : List Event}
    (hu : busTarget s.cfg addr n = .ok u) (hp : s.pending = .host (.write addr n v) :: rest) :
    ∃ t, step s = .next t ∧ t.resp = .written := by
  rcases busTarget_ok hu with ⟨r, rfl⟩ | ⟨i, hi, rfl⟩ | ⟨i, hi, rfl⟩
  · obtain ⟨rfl, rfl⟩ := busTarget_eq_reg hu
    by_cases hr : r = .cmd
    · subst hr
      cases hw : decode v with
      | ok i =>
        rw [step_of_legal_cmdWrite hp hw]
        exact exec_keeps_resp i _
      | error e => exact ⟨_, step_of_illegal_cmdWrite hp hw, rfl⟩
    · exact ⟨_, step_of_wrEvent hr hp, resp_writeReg r v _⟩
  · exact ⟨_, step_of_done hp (by simp only [serve, hostAccess, hu, hostWrite]; rfl), resp_writeTxbuf i _ _⟩
  · exact ⟨_, step_of_done hp (by simp only [serve, hostAccess, hu, hostWrite]; rfl), rfl⟩

/-- Settles O15: an access is refused exactly where it reaches nothing; what it reaches answers data or a write. -/
theorem refusedAccessIsABusErrorOnly : Obligations.RefusedAccessIsABusErrorOnly := by
  refine ⟨fun s a rest hp h => step_of_refused h hp, fun s a rest hp h => ?_⟩
  obtain ⟨u, hu⟩ := accessSucceeds_iff.1 h
  cases a with
  | read addr n => exact ⟨_, step_of_read hu hp, by simp⟩
  | write addr n v =>
    obtain ⟨t, hstep, hresp⟩ := step_of_write hu hp
    exact ⟨t, hstep, by simp [hresp]⟩

end Sys2Proof.Machine

namespace Sys2Proof.Machine

/-! ## A word and its three fields (30_encoding.md R65, R66) -/

/-- The word with the given RSV, IMM8 and OP (30_encoding.md R65). -/
def wordOf (rsv : BitVec 16) (imm op : Byte) : Word := rsv ++ (imm ++ op : BitVec 16)

@[simp] theorem rsvField_wordOf (rsv : BitVec 16) (imm op : Byte) : rsvField (wordOf rsv imm op) = rsv :=
  BitVec.extractLsb'_append_eq_left

@[simp] theorem immField_wordOf (rsv : BitVec 16) (imm op : Byte) : immField (wordOf rsv imm op) = imm :=
  (BitVec.extractLsb'_append_eq_of_add_le (by decide)).trans BitVec.extractLsb'_append_eq_left

@[simp] theorem opField_wordOf (rsv : BitVec 16) (imm op : Byte) : opField (wordOf rsv imm op) = op :=
  (BitVec.extractLsb'_append_eq_of_add_le (by decide)).trans BitVec.extractLsb'_append_eq_right

@[simp] theorem rsvField_and (v w : Word) : rsvField (v &&& w) = rsvField v &&& rsvField w := BitVec.extractLsb'_and

@[simp] theorem immField_and (v w : Word) : immField (v &&& w) = immField v &&& immField w := BitVec.extractLsb'_and

@[simp] theorem opField_and (v w : Word) : opField (v &&& w) = opField v &&& opField w := BitVec.extractLsb'_and

/-- Words are compared field by field. -/
theorem word_eq_iff_fields {v w : Word} :
    v = w ↔ rsvField v = rsvField w ∧ immField v = immField w ∧ opField v = opField w := by
  refine ⟨by rintro rfl; simp, fun ⟨hrsv, himm, hop⟩ => ?_⟩
  rw [word_eq_fields v, hrsv, himm, hop, ← word_eq_fields]

theorem rsvField_encode (i : Instr) : rsvField (encode i) = 0 := rsvField_wordOf 0 i.imm8 i.opcode

theorem immField_encode (i : Instr) : immField (encode i) = i.imm8 := immField_wordOf 0 i.imm8 i.opcode

theorem opField_encode (i : Instr) : opField (encode i) = i.opcode := opField_wordOf 0 i.imm8 i.opcode

/-! ## The legal words (30_encoding.md R66, R69) -/

/-- The three checks of `decode_ok` are enough. -/
theorem decode_eq_ok_iff {w : Word} {i : Instr} : decode w = .ok i ↔
    rsvField w = 0 ∧ instrOf (opField w) (immField w) = some i ∧ i.immClass.admits (immField w) = true := by
  refine ⟨decode_ok, fun ⟨hrsv, hinstr, hadm⟩ => ?_⟩
  simp [decode, hrsv, hinstr, hadm]

theorem instrOf_opcode_imm8 (i : Instr) : instrOf i.opcode i.imm8 = some i := by
  cases i <;> rfl

theorem wellFormed_of_decode_ok {w : Word} {i : Instr} (h : decode w = .ok i) : i.wellFormed = true := by
  obtain ⟨-, -, hadm⟩ := decode_ok h
  have himm : immField w = i.imm8 := by rw [← encode_of_decode_ok h, immField_encode]
  rwa [himm] at hadm

/-- Settles O2: the fields of an encoded command are those the decoder looks up. -/
theorem decodeOfEncodeIsTheCommand : Obligations.DecodeOfEncodeIsTheCommand := by
  intro i hwf
  rw [decode_eq_ok_iff, opField_encode, immField_encode]
  exact ⟨rsvField_encode i, instrOf_opcode_imm8 i, hwf⟩

/-- Settles O3: a legal word is the encoding of the command it stands for, so the IMM8 that the decoder checked is the
command's own. -/
theorem encodeOfDecodeIsTheWord : Obligations.EncodeOfDecodeIsTheWord :=
  fun _ _ h => ⟨wellFormed_of_decode_ok h, encode_of_decode_ok h⟩

/-! ## The rows of the opcode map (30_encoding.md R67, R68) -/

/-- The bits of IMM8 that a row's mask compares with 0: those that no value of the row's class sets. -/
def fixedBits : ImmClass → Byte
  | .zero => 0xFF
  | .byte => 0x00
  | .nibble => 0xF0
  | .variant => 0xFE
  | .count max => if max ≤ 15 then 0xF0 else 0x00

/-- The row of R68 that a command belongs to; the command's operand does not enter it. -/
def rowOf (i : Instr) : OpcodeRow :=
  { mnemonic := i.mnemonic
    pattern := wordOf 0 0 i.opcode
    mask := wordOf (BitVec.allOnes 16) (fixedBits i.immClass) (BitVec.allOnes 8)
    immClass := i.immClass }

/-- One command of each row, those that have an operand with the operand `b`. -/
def commandsWith (b : Byte) : List Instr :=
  [.nop, .sreset, .c16init, .c16byte b, .c16hex, .c8init, .c8byte b, .c8text, .aenc, .akey b, .aswap, .fbuild, .fvalid,
    .mack, .mans b, .chunk b, .hexget b, .txstart, .rxpop, .rxflush]

theorem mem_commandsWith_imm8 (i : Instr) : i ∈ commandsWith i.imm8 := by
  cases i <;> simp [commandsWith, Instr.imm8]

theorem opcodeMap_eq_map_rowOf (b : Byte) : opcodeMap = (commandsWith b).map rowOf :=
  calc opcodeMap = (commandsWith 0).map rowOf := by decide
    _ = (commandsWith b).map rowOf := rfl

theorem mem_opcodeMap_iff {row : OpcodeRow} : row ∈ opcodeMap ↔ ∃ i, rowOf i = row := by
  constructor
  · intro h
    obtain ⟨i, -, hi⟩ := List.mem_map.1 (opcodeMap_eq_map_rowOf 0 ▸ h)
    exact ⟨i, hi⟩
  · rintro ⟨i, rfl⟩
    rw [opcodeMap_eq_map_rowOf i.imm8]
    exact List.mem_map_of_mem (mem_commandsWith_imm8 i)

/-- With any IMM8, a command's operation code stands for a command of the same row. -/
theorem exists_instrOf_opcode (i : Instr) (imm : Byte) : ∃ j, instrOf i.opcode imm = some j ∧ rowOf j = rowOf i := by
  cases i <;> exact ⟨_, rfl, rfl⟩

/-- One operation code, one row. -/
theorem rowOf_eq_of_opcode_eq {i j : Instr} (h : i.opcode = j.opcode) : rowOf i = rowOf j := by
  obtain ⟨k, hk, hki⟩ := exists_instrOf_opcode i j.imm8
  rw [h, instrOf_opcode_imm8] at hk
  obtain rfl := Option.some.inj hk
  exact hki.symm

theorem and_fixedBits_of_admits {c : ImmClass} {imm : Byte} (h : c.admits imm = true) : imm &&& fixedBits c = 0 := by
  have hnibble : ∀ b : Byte, b.toNat ≤ 15 → b &&& 0xF0 = 0 := by decide
  have hvariant : ∀ b : Byte, b.toNat ≤ 1 → b &&& 0xFE = 0 := by decide
  cases c with
  | zero =>
    obtain rfl : imm = 0 := eq_of_beq h
    exact BitVec.zero_and
  | byte => exact BitVec.and_zero
  | nibble => exact hnibble imm (of_decide_eq_true h)
  | variant => exact hvariant imm (of_decide_eq_true h)
  | count max =>
    simp only [ImmClass.admits, Bool.and_eq_true, decide_eq_true_eq] at h
    rw [fixedBits]
    split
    · exact hnibble imm (by omega)
    · exact BitVec.and_zero

/-- A row's mask and match compare RSV and OP whole, and the fixed bits of IMM8. -/
theorem and_mask_eq_pattern_iff {i : Instr} {w : Word} : (w &&& (rowOf i).mask) = (rowOf i).pattern ↔
    rsvField w = 0 ∧ immField w &&& fixedBits i.immClass = 0 ∧ opField w = i.opcode := by
  simp only [word_eq_iff_fields, rowOf, rsvField_and, immField_and, opField_and, rsvField_wordOf, immField_wordOf,
    opField_wordOf, BitVec.and_allOnes]

theorem rowOf_accepts_iff {i : Instr} {w : Word} : (rowOf i).accepts w = true ↔
    rsvField w = 0 ∧ opField w = i.opcode ∧ i.immClass.admits (immField w) = true := by
  simp only [OpcodeRow.accepts, Bool.and_eq_true, beq_iff_eq, and_mask_eq_pattern_iff]
  constructor
  · rintro ⟨⟨hrsv, -, hop⟩, hadm⟩
    exact ⟨hrsv, hop, hadm⟩
  · rintro ⟨hrsv, hop, hadm⟩
    exact ⟨⟨hrsv, and_fixedBits_of_admits hadm, hop⟩, hadm⟩

/-- A word decodes to a command of a row exactly when the row is in the map and accepts the word. -/
theorem exists_decode_rowOf_iff {w : Word} {row : OpcodeRow} :
    (∃ i, decode w = .ok i ∧ rowOf i = row) ↔ row ∈ opcodeMap ∧ row.accepts w = true := by
  constructor
  · rintro ⟨i, h, rfl⟩
    obtain ⟨hrsv, hinstr, hadm⟩ := decode_ok h
    exact ⟨mem_opcodeMap_iff.2 ⟨i, rfl⟩, rowOf_accepts_iff.2 ⟨hrsv, (instrOf_eq_some hinstr).1, hadm⟩⟩
  · rintro ⟨hmem, hacc⟩
    obtain ⟨i, rfl⟩ := mem_opcodeMap_iff.1 hmem
    obtain ⟨hrsv, hop, hadm⟩ := rowOf_accepts_iff.1 hacc
    obtain ⟨j, hj, hrow⟩ := exists_instrOf_opcode i (immField w)
    have hclass : j.immClass = i.immClass := congrArg OpcodeRow.immClass hrow
    exact ⟨j, decode_eq_ok_iff.2 ⟨hrsv, by rw [hop, hj], by rw [hclass, hadm]⟩, hrow⟩

/-- Settles O4: each row is the row of the commands that its words decode to, so two rows of one word are one. -/
theorem decodeFollowsTheOpcodeMap : Obligations.DecodeFollowsTheOpcodeMap := by
  refine ⟨fun w m => ⟨?_, ?_⟩, fun w row hmem row' hmem' hacc hacc' => ?_⟩
  · rintro ⟨i, hdec, rfl⟩
    obtain ⟨hmem, hacc⟩ := exists_decode_rowOf_iff.1 ⟨i, hdec, rfl⟩
    exact ⟨rowOf i, hmem, rfl, by simpa [OpcodeRow.accepts, immField] using hacc⟩
  · rintro ⟨row, hmem, rfl, hmask, hadm⟩
    have hacc : row.accepts w = true := by simp [OpcodeRow.accepts, immField, hmask, hadm]
    obtain ⟨i, hdec, rfl⟩ := exists_decode_rowOf_iff.2 ⟨hmem, hacc⟩
    exact ⟨i, hdec, rfl⟩
  · obtain ⟨i, hdec, rfl⟩ := exists_decode_rowOf_iff.2 ⟨hmem, hacc⟩
    obtain ⟨j, hdec', rfl⟩ := exists_decode_rowOf_iff.2 ⟨hmem', hacc'⟩
    obtain rfl : i = j := Except.ok.inj (hdec.symm.trans hdec')
    rfl

/-! ## Illegal words (30_encoding.md R69) -/

theorem unassignedOp_opcode (i : Instr) : unassignedOp i.opcode.toNat = false := by
  cases i <;> rfl

/-- A word that decodes to a command meets none of R69's three causes. -/
theorem legal_of_decode_ok {w : Word} {i : Instr} (h : decode w = .ok i) :
    rsvField w = 0 ∧ unassignedOp (opField w).toNat = false ∧
      ∀ row ∈ opcodeMap, opField row.pattern = opField w → row.immClass.admits (immField w) = true := by
  obtain ⟨hrsv, hinstr, hadm⟩ := decode_ok h
  obtain ⟨hop, -⟩ := instrOf_eq_some hinstr
  refine ⟨hrsv, by rw [hop, unassignedOp_opcode], fun row hmem hrow => ?_⟩
  obtain ⟨j, rfl⟩ := mem_opcodeMap_iff.1 hmem
  have hji : rowOf j = rowOf i := rowOf_eq_of_opcode_eq (by simpa [rowOf, hop] using hrow)
  rw [hji]
  exact hadm

/-- Settles O5: with any of the three causes the word decodes to no command, and the step raises BAD_CMD. -/
theorem illegalWordRaisesBadCmdOnly : Obligations.IllegalWordRaisesBadCmdOnly := by
  intro s w rest hp hbad
  cases hw : decode w with
  | error e => exact step_of_illegal_cmdWrite hp hw
  | ok i =>
    obtain ⟨hrsv, hassigned, hadm⟩ := legal_of_decode_ok hw
    rcases hbad with h | h | ⟨row, hmem, hop, h⟩
    · exact absurd hrsv h
    · exact absurd (hassigned.symm.trans h) Bool.false_ne_true
    · exact absurd (h.symm.trans (hadm row hmem hop)) Bool.false_ne_true

/-- Settles O1, by running the decoder on each word. -/
theorem specWordsDecode : Obligations.SpecWordsDecode := by
  unfold Obligations.SpecWordsDecode
  decide

end Sys2Proof.Machine

namespace Sys2Proof.Machine

/-! ## The control commands (40_control.md) -/

@[simp] theorem exec_nop (s : State) : exec .nop s = .next s := attempt_ok s s

@[simp] theorem exec_sreset (s : State) : exec .sreset s = .next (softReset s) := attempt_ok s (softReset s)

/-- SRESET keeps TXBUF and WBUF: it changes neither the written cells nor the draw of the others (40_control.md R82). -/
@[simp] theorem softReset_cell (s : State) (off : Nat) : (softReset s).cell off = s.cell off := by
  simp only [State.cell, softReset_mem, softReset_resets]

/-- Settles O13: NOP is `skip`. -/
theorem nopChangesNothing : Obligations.NopChangesNothing := ⟨by decide, exec_nop⟩

/-- Settles O12: SRESET answers `softReset s`, whose registers read as at reset and whose buffer cells are those of `s`. -/
theorem sresetKeepsBuffersOnly : Obligations.SresetKeepsBuffersOnly := by
  refine ⟨by decide, fun s hc => ⟨softReset s, exec_sreset s, fun r => ?_, rfl, rfl, rfl, rfl, softReset_cell s, rfl⟩⟩
  calc (softReset s).readReg r
    _ = State.reset.readReg r := readReg_softReset hc r
    _ = resetWord r := readReg_reset r

end Sys2Proof.Machine

namespace Sys2Proof.Machine

/-! ## The word of a command as a sum (30_encoding.md R65) -/

theorem toNat_append_eq_add {m n : Nat} (x : BitVec m) (y : BitVec n) :
    (x ++ y).toNat = x.toNat * 2 ^ n + y.toNat := by
  rw [BitVec.toNat_append, ← Nat.shiftLeft_add_eq_or_of_lt y.isLt, Nat.shiftLeft_eq]

/-- IMM8 stands 8 bits above OP, and no carry leaves OP. -/
theorem encode_eq_opcode_add_imm8 (i : Instr) : encode i = i.opcode.setWidth 32 + (i.imm8.setWidth 32 <<< 8) := by
  have hop := i.opcode.isLt
  have himm := i.imm8.isLt
  apply BitVec.eq_of_toNat_eq
  calc (encode i).toNat
    _ = (0 : BitVec 16).toNat * 2 ^ 16 + (i.imm8.toNat * 2 ^ 8 + i.opcode.toNat) := by
      rw [← toNat_append_eq_add, ← toNat_append_eq_add]; rfl
    _ = _ := by simp [Nat.shiftLeft_eq]; omega

/-! ## Doing a step several times -/

theorem times_eq_iterate {α : Type} (f : α → α) (n : Nat) (c : α) : times f n c = f^[n] c := by
  induction n generalizing c with
  | zero => rfl
  | succ n ih => exact ih (f c)

/-- The form in which the rules write a loop (41_crc.md R85, R86). -/
theorem times_eq_foldl_range {α : Type} (f : α → α) (n : Nat) (c : α) :
    times f n c = (List.range n).foldl (fun c _ => f c) c := by
  rw [times_eq_iterate, List.foldl_const, List.length_range]

theorem times_injective {α : Type} {f : α → α} (hf : Function.Injective f) (n : Nat) : Function.Injective (times f n) := by
  rw [show times f n = f^[n] from funext (times_eq_iterate f n)]
  exact hf.iterate n

theorem times_xor {w : Nat} {f : BitVec w → BitVec w} (hf : ∀ c d, f (c ^^^ d) = f c ^^^ f d) (n : Nat) (c d : BitVec w) :
    times f n (c ^^^ d) = times f n c ^^^ times f n d := by
  induction n generalizing c d with
  | zero => rfl
  | succ n ih => simp only [times, hf, ih]

/-! ## One polynomial division (41_crc.md R85, R86), for both CRCs -/

/-- Shift left, and XOR the polynomial if the bit shifted out was 1: `shift16` and `shift8` at any width. -/
def divide {w : Nat} (poly c : BitVec w) : BitVec w := if c.getLsbD (w - 1) then (c <<< 1) ^^^ poly else c <<< 1

theorem shift16_eq_divide : shift16 = divide crc16Poly := rfl

theorem shift8_eq_divide : shift8 = divide crc8Poly := rfl

section
variable {w : Nat} (poly c d : BitVec w)

theorem divide_of_high (h : c.getLsbD (w - 1) = true) : divide poly c = (c <<< 1) ^^^ poly := if_pos h

theorem divide_of_low (h : c.getLsbD (w - 1) = false) : divide poly c = c <<< 1 := if_neg (by simp [h])

/-- Division is linear: where both bits shifted out are 1, the two polynomials cancel. -/
theorem divide_xor : divide poly (c ^^^ d) = divide poly c ^^^ divide poly d := by
  cases hc : c.getLsbD (w - 1) <;> cases hd : d.getLsbD (w - 1)
  · rw [divide_of_low _ _ (by simp [hc, hd]), divide_of_low _ _ hc, divide_of_low _ _ hd, BitVec.shiftLeft_xor_distrib]
  · rw [divide_of_high _ _ (by simp [hc, hd]), divide_of_low _ _ hc, divide_of_high _ _ hd, BitVec.shiftLeft_xor_distrib,
      BitVec.xor_assoc]
  · rw [divide_of_high _ _ (by simp [hc, hd]), divide_of_high _ _ hc, divide_of_low _ _ hd, BitVec.shiftLeft_xor_distrib]
    ac_rfl
  · have hcancel : (c <<< 1 ^^^ poly) ^^^ (d <<< 1 ^^^ poly) = (c <<< 1 ^^^ d <<< 1) ^^^ (poly ^^^ poly) := by ac_rfl
    rw [divide_of_low _ _ (by simp [hc, hd]), divide_of_high _ _ hc, divide_of_high _ _ hd, BitVec.shiftLeft_xor_distrib,
      hcancel, BitVec.xor_self, BitVec.xor_zero]

/-- The low bit after a division shows the bit that was shifted out, as the low bit of the polynomial is 1. -/
theorem getLsbD_zero_divide {poly : BitVec w} (hpoly : poly.getLsbD 0 = true) :
    (divide poly c).getLsbD 0 = c.getLsbD (w - 1) := by
  cases hc : c.getLsbD (w - 1)
  · simp [divide_of_low _ _ hc]
  · simp [divide_of_high _ _ hc, hpoly]

/-- So no bit is lost. -/
theorem divide_injective {poly : BitVec w} (hpoly : poly.getLsbD 0 = true) : Function.Injective (divide poly) := by
  intro c d h
  have htop : c.getLsbD (w - 1) = d.getLsbD (w - 1) := by
    rw [← getLsbD_zero_divide c hpoly, ← getLsbD_zero_divide d hpoly, h]
  have hshift : c <<< 1 = d <<< 1 := by
    simp only [divide, htop] at h
    split at h
    · exact (BitVec.xor_left_inj poly).1 h
    · exact h
  apply BitVec.eq_of_getLsbD_eq
  intro i hi
  by_cases hlast : i + 1 < w
  · simpa [hlast, hi] using congrArg (·.getLsbD (i + 1)) hshift
  · rwa [show w - 1 = i by omega] at htop

end

theorem shift16_xor (c d : BitVec 16) : shift16 (c ^^^ d) = shift16 c ^^^ shift16 d := divide_xor crc16Poly c d

theorem shift8_xor (c d : Byte) : shift8 (c ^^^ d) = shift8 c ^^^ shift8 d := divide_xor crc8Poly c d

theorem shift16_injective : Function.Injective shift16 := divide_injective (by decide)

theorem shift8_injective : Function.Injective shift8 := divide_injective (by decide)

/-! ## One byte (41_crc.md R85, R86, R93) -/

/-- The byte as `step16` feeds it: in the high byte of the register (41_crc.md R85). -/
def highByte (b : Byte) : BitVec 16 := b ++ (0 : BitVec 8)

theorem step16_eq_times (c : BitVec 16) (b : Byte) : step16 c b = times shift16 8 (c ^^^ highByte b) := rfl

theorem highByte_eq_shiftLeft (b : Byte) : highByte b = b.setWidth 16 <<< 8 := by
  have hb := b.isLt
  apply BitVec.eq_of_toNat_eq
  calc (highByte b).toNat
    _ = b.toNat * 2 ^ 8 + (0 : BitVec 8).toNat := toNat_append_eq_add b 0
    _ = _ := by simp [Nat.shiftLeft_eq]; omega

theorem highByte_xor (a b : Byte) : highByte (a ^^^ b) = highByte a ^^^ highByte b := by
  simp only [highByte_eq_shiftLeft, BitVec.setWidth_xor, BitVec.shiftLeft_xor_distrib]

theorem highByte_injective : Function.Injective highByte := fun _ _ h => (BitVec.append_left_inj (0 : BitVec 8)).1 h

theorem step16_xor (c d : BitVec 16) (a b : Byte) : step16 (c ^^^ d) (a ^^^ b) = step16 c a ^^^ step16 d b := by
  have hin : (c ^^^ d) ^^^ (highByte a ^^^ highByte b) = (c ^^^ highByte a) ^^^ (d ^^^ highByte b) := by ac_rfl
  simp only [step16_eq_times, highByte_xor, hin, times_xor shift16_xor]

theorem step8_xor (c d a b : Byte) : step8 (c ^^^ d) (a ^^^ b) = step8 c a ^^^ step8 d b := by
  have hin : (c ^^^ d) ^^^ (a ^^^ b) = (c ^^^ a) ^^^ (d ^^^ b) := by ac_rfl
  simp only [step8, hin, times_xor shift8_xor]

/-- Two registers that differ still differ after a byte. -/
theorem step16_register_injective (b : Byte) : Function.Injective (step16 · b) := fun _ _ h =>
  (BitVec.xor_left_inj _).1 (times_injective shift16_injective 8 h)

theorem step8_register_injective (x : Byte) : Function.Injective (step8 · x) := fun _ _ h =>
  (BitVec.xor_left_inj _).1 (times_injective shift8_injective 8 h)

/-- Two bytes that differ make the register differ. -/
theorem step16_byte_injective (c : BitVec 16) : Function.Injective (step16 c) := fun _ _ h =>
  highByte_injective ((BitVec.xor_right_inj c).1 (times_injective shift16_injective 8 h))

theorem step8_byte_injective (c : Byte) : Function.Injective (step8 c) := fun _ _ h =>
  (BitVec.xor_right_inj _).1 (times_injective shift8_injective 8 h)

/-! ## The bytes of a hex text (00_scope.md R9) -/

/-- The byte of a pair of hex characters, the first its high digit. -/
def pairByte (a b : Byte) : Byte := BitVec.ofNat 8 (16 * digitVal a + digitVal b)

theorem bytesOf_cons_cons (a b : Byte) (t : Text) : bytesOf (a :: b :: t) = pairByte a b :: bytesOf t := by
  have hval : hexval [a, b] = 16 * digitVal a + digitVal b := by
    simp [hexval]
    ring
  rw [bytesOf, hval, pairByte]

/-- Byte `k` is that of characters `2 * k` and `2 * k + 1`. -/
theorem bytesOf_eq_map_range (t : Text) :
    bytesOf t = (List.range (t.length / 2)).map fun k => pairByte (t.getD (2 * k) 0) (t.getD (2 * k + 1) 0) := by
  induction t using bytesOf.induct with
  | case1 a b t ih =>
    have hlen : (a :: b :: t).length / 2 = t.length / 2 + 1 := Nat.add_div_right t.length Nat.two_pos
    rw [bytesOf_cons_cons, hlen, List.range_succ_eq_map, List.map_cons, List.map_map, ih]
    rfl
  | case2 t ht =>
    match t with
    | [] => rfl
    | [_] => simp [bytesOf]
    | a :: b :: t => exact absurd rfl (ht a b t)

theorem bytesOf_wbufText (s : State) (a n : Nat) :
    bytesOf (s.wbufText a n) =
      (List.range (n / 2)).map fun k => pairByte (s.wbuf (a + 2 * k)) (s.wbuf (a + 2 * k + 1)) := by
  rw [bytesOf_eq_map_range, wbufText_length]
  refine List.map_congr_left fun k hk => ?_
  have hk : k < n / 2 := List.mem_range.1 hk
  rw [List.getD_eq_getElem _ _ (by simp; omega), List.getD_eq_getElem _ _ (by simp; omega), wbufText_getElem,
    wbufText_getElem, Nat.add_assoc]

/-- Settles O26: both steps are `divide` done 8 times, and `divide` is linear. -/
theorem crcStepsAreCarryLess : Obligations.CrcStepsAreCarryLess := by
  refine ⟨fun c b => ?_, fun c x => times_eq_foldl_range shift8 8 (c ^^^ x), fun t _ => ?_, fun _ => rfl, step16_xor,
    step8_xor, by decide, by decide⟩
  · rw [← highByte_eq_shiftLeft]
    exact times_eq_foldl_range shift16 8 _
  · rw [crc16Hex, crc16, bytesOf_eq_map_range, List.foldl_map]
    rfl

end Sys2Proof.Machine

namespace Sys2Proof.Machine

/-! ## A change of one character (41_crc.md R94) -/

/-- A fold whose step loses neither a difference of state nor a difference of item tells two lists apart that differ in
one item. -/
theorem foldl_ne_of_one_change {α β : Type} {f : β → α → β} (hstate : ∀ x, Function.Injective (f · x))
    (hitem : ∀ c, Function.Injective (f c)) {x y : α} (hxy : x ≠ y) (c : β) (p q : List α) :
    (p ++ x :: q).foldl f c ≠ (p ++ y :: q).foldl f c := by
  have htail (q : List α) : Function.Injective (q.foldl f ·) := by
    induction q with
    | nil => exact fun _ _ h => h
    | cons z q ih => exact ih.comp (hstate z)
  simp only [List.foldl_append, List.foldl_cons]
  exact fun h => hxy (hitem _ (htail q h))

theorem crc8_ne_of_one_change {x y : Byte} (hxy : x ≠ y) (p q : Text) : crc8 (p ++ x :: q) ≠ crc8 (p ++ y :: q) :=
  foldl_ne_of_one_change step8_register_injective step8_byte_injective hxy crc8Init p q

theorem crc16_ne_of_one_change {x y : Byte} (hxy : x ≠ y) (p q : List Byte) :
    crc16 (p ++ x :: q) ≠ crc16 (p ++ y :: q) :=
  foldl_ne_of_one_change step16_register_injective step16_byte_injective hxy crc16Init p q

/-- A byte shows both of its digits. -/
theorem digitVal_eq_of_pairByte_eq {a b c d : Byte} (ha : isHexDigit a = true) (hb : isHexDigit b = true)
    (hc : isHexDigit c = true) (hd : isHexDigit d = true) (h : pairByte a b = pairByte c d) :
    digitVal a = digitVal c ∧ digitVal b = digitVal d := by
  have ha := digitVal_lt a ha
  have hb := digitVal_lt b hb
  have hc := digitVal_lt c hc
  have hd := digitVal_lt d hd
  have hval := congrArg BitVec.toNat h
  simp only [pairByte, BitVec.toNat_ofNat] at hval
  omega

theorem bytesOf_append_pair {p : Text} (hp : p.length % 2 = 0) (a b : Byte) (q : Text) :
    bytesOf (p ++ a :: b :: q) = bytesOf p ++ pairByte a b :: bytesOf q := by
  rw [bytesOf_append _ _ hp, bytesOf_cons_cons]

/-- A digit changed to one of another value changes the byte of its pair. -/
theorem crc16Hex_ne_of_pair_change {p : Text} (hp : p.length % 2 = 0) {a b c d : Byte} (q : Text)
    (hne : pairByte a b ≠ pairByte c d) : crc16Hex (p ++ a :: b :: q) ≠ crc16Hex (p ++ c :: d :: q) := by
  rw [crc16Hex, crc16Hex, bytesOf_append_pair hp, bytesOf_append_pair hp]
  exact crc16_ne_of_one_change hne _ _

theorem ishex_iff {t : Text} : ishex t = true ↔ ∀ c ∈ t, isHexDigit c = true := List.all_eq_true

/-- Settles O30: no step of either CRC loses a difference. A changed digit is the high one of its pair where an even number
of digits stands before it, and the low one otherwise. -/
theorem singleCharacterChangesAreDetected : Obligations.SingleCharacterChangesAreDetected := by
  refine ⟨fun p q x y hxy => crc8_ne_of_one_change hxy p q, fun p q x y hhex hy hlen hxy => ?_⟩
  have hdigit := ishex_iff.1 hhex
  have hx := hdigit x (by simp)
  rcases Nat.mod_two_eq_zero_or_one p.length with hp | hp
  · obtain _ | ⟨b, q⟩ := q
    · simp at hlen; omega
    have hb := hdigit b (by simp)
    exact crc16Hex_ne_of_pair_change hp q fun h => hxy (digitVal_eq_of_pairByte_eq hx hb hy hb h).1
  · obtain rfl | ⟨p, a, rfl⟩ := List.eq_nil_or_concat p
    · simp at hp
    have ha := hdigit a (by simp)
    have hp : p.length % 2 = 0 := by simp at hp; omega
    simp only [List.concat_eq_append, List.append_assoc, List.singleton_append]
    exact crc16Hex_ne_of_pair_change hp q fun h => hxy (digitVal_eq_of_pairByte_eq ha hx ha hy h).2

/-! ## The CRC commands (41_crc.md R87 to R92) -/

@[simp] theorem exec_c16init (s : State) : exec .c16init s = .next { s with acc16 := 0xFFFF } := rfl

@[simp] theorem exec_c16byte (b : Byte) (s : State) :
    exec (.c16byte b) s = .next { s with acc16 := step16 s.acc16 b } := rfl

@[simp] theorem exec_c8init (s : State) : exec .c8init s = .next { s with acc8 := 0x00 } := rfl

@[simp] theorem exec_c8byte (x : Byte) (s : State) : exec (.c8byte x) s = .next { s with acc8 := step8 s.acc8 x } := rfl

/-- Settles O25: the words are sums of OP and the shifted IMM8, and none of the four commands has a check. -/
theorem crcInitAndByteCommands : Obligations.CrcInitAndByteCommands :=
  ⟨⟨by decide, by decide, fun b => ⟨encode_eq_opcode_add_imm8 (.c16byte b), encode_eq_opcode_add_imm8 (.c8byte b)⟩⟩,
    by decide, fun s => ⟨exec_c16init s, exec_c8init s, fun b => exec_c16byte b s, fun x => exec_c8byte x s⟩⟩

theorem windowIn_iff {s : State} {n : Nat} : s.windowIn n = true ↔ s.boff.toNat + n ≤ s.wlen.toNat := decide_eq_true_iff

theorem not_windowIn_iff {s : State} {n : Nat} : (!s.windowIn n) = true ↔ s.wlen.toNat < s.boff.toNat + n := by
  rw [Bool.not_eq_true', ← Bool.not_eq_true, windowIn_iff, Nat.not_le]

theorem ishex_wbufText_iff {s : State} {a n : Nat} :
    ishex (s.wbufText a n) = true ↔ ∀ j, j < n → isHexDigit (s.wbuf (a + j)) = true := by
  simp [ishex_iff, State.wbufText]

section
variable {s : State}

/-! One lemma per branch of R89 and R92. -/

theorem exec_c16hex_of_outside (hw : s.wlen.toNat < s.boff.toNat + s.blen.toNat) :
    exec .c16hex s = .next (raiseErr .range s) := by
  rw [exec, execC16hex, if_pos (not_windowIn_iff.2 hw), attempt_error]

theorem exec_c8text_of_outside (hw : s.wlen.toNat < s.boff.toNat + s.blen.toNat) :
    exec .c8text s = .next (raiseErr .range s) := by
  rw [exec, execC8text, if_pos (not_windowIn_iff.2 hw), attempt_error]

variable (hw : s.boff.toNat + s.blen.toNat ≤ s.wlen.toNat)
include hw

theorem exec_c16hex_of_odd (hodd : s.blen.toNat % 2 = 1) : exec .c16hex s = .next (raiseErr .badArg s) := by
  rw [exec, execC16hex, if_neg (mt not_windowIn_iff.1 (by omega)), if_pos hodd, attempt_error]

theorem exec_c16hex_of_not_hex (heven : s.blen.toNat % 2 = 0)
    (hbad : ∃ j, j < s.blen.toNat ∧ isHexDigit (s.wbuf (s.boff.toNat + j)) = false) :
    exec .c16hex s = .next (raiseErr .notHex s) := by
  have hhex : ishex s.window = false := by
    obtain ⟨j, hj, hd⟩ := hbad
    exact Bool.eq_false_iff.2 fun h => Bool.false_ne_true (hd.symm.trans (ishex_wbufText_iff.1 h j hj))
  rw [exec, execC16hex, if_neg (mt not_windowIn_iff.1 (by omega)), if_neg (by omega), if_pos (by simp [hhex]),
    attempt_error]

theorem exec_c16hex_of_hex (heven : s.blen.toNat % 2 = 0)
    (hhex : ∀ j, j < s.blen.toNat → isHexDigit (s.wbuf (s.boff.toNat + j)) = true) :
    exec .c16hex s = .next { s with acc16 := (bytesOf s.window).foldl step16 s.acc16 } := by
  have hhex : ishex s.window = true := ishex_wbufText_iff.2 hhex
  rw [exec, execC16hex, if_neg (mt not_windowIn_iff.1 (by omega)), if_neg (by omega), if_neg (by simp [hhex]),
    attempt_ok]

theorem exec_c8text_of_inside : exec .c8text s = .next { s with acc8 := s.window.foldl step8 s.acc8 } := by
  rw [exec, execC8text, if_neg (mt not_windowIn_iff.1 (by omega)), attempt_ok]

end

/-- Settles O27: the four branches, with the window's bytes read pair by pair. -/
theorem c16hexChecksThenFeedsTheWindow : Obligations.C16hexChecksThenFeedsTheWindow := by
  refine ⟨by decide, fun s => ⟨exec_c16hex_of_outside, exec_c16hex_of_odd, exec_c16hex_of_not_hex, fun hw heven hhex => ?_⟩⟩
  have hbytes := bytesOf_wbufText s s.boff.toNat s.blen.toNat
  rw [exec_c16hex_of_hex hw heven hhex, State.window, State.windowText, hbytes, List.foldl_map]
  rfl

/-- Settles O28: the two branches. -/
theorem c8textChecksThenFeedsTheWindow : Obligations.C8textChecksThenFeedsTheWindow := by
  refine ⟨by decide, fun s => ⟨exec_c8text_of_outside, fun hw => ?_⟩⟩
  rw [exec_c8text_of_inside hw, State.window, State.windowText, State.wbufText, List.foldl_map]

/-! ## Two windows in turn (41_crc.md R93) -/

/-- The whole window's text is the first part's and then the second's. -/
theorem wbufText_add (s : State) (a m n : Nat) : s.wbufText a (m + n) = s.wbufText a m ++ s.wbufText (a + m) n := by
  simp [State.wbufText, List.range_add, Function.comp_def, Nat.add_assoc]

/-- C16HEX over any good window of the state. -/
theorem exec_c16hex_window (s : State) {off n : BitVec 16} (hw : off.toNat + n.toNat ≤ s.wlen.toNat)
    (heven : n.toNat % 2 = 0) (hhex : ∀ j, j < n.toNat → isHexDigit (s.wbuf (off.toNat + j)) = true) :
    exec .c16hex { s with boff := off, blen := n } = .next { s with
      boff := off, blen := n, acc16 := (bytesOf (s.wbufText off.toNat n.toNat)).foldl step16 s.acc16 } :=
  exec_c16hex_of_hex hw heven hhex

/-- C8TEXT over any good window of the state. -/
theorem exec_c8text_window (s : State) {off n : BitVec 16} (hw : off.toNat + n.toNat ≤ s.wlen.toNat) :
    exec .c8text { s with boff := off, blen := n } = .next { s with
      boff := off, blen := n, acc8 := (s.wbufText off.toNat n.toNat).foldl step8 s.acc8 } :=
  exec_c8text_of_inside hw

/-- Settles O29: no sum of the window's bounds wraps, and feeding two texts in turn is feeding them joined. -/
theorem splitWindowsGiveTheSameCrc : Obligations.SplitWindowsGiveTheSameCrc := by
  intro s off m n hw
  have hlt := s.wlen.isLt
  have hoff : (off + m).toNat = off.toNat + m.toNat := BitVec.toNat_add_of_lt (by omega)
  have hlen : (m + n).toNat = m.toNat + n.toNat := BitVec.toNat_add_of_lt (by omega)
  have hfirst : off.toNat + m.toNat ≤ s.wlen.toNat := by omega
  have hsecond : (off + m).toNat + n.toNat ≤ s.wlen.toNat := by omega
  have hwhole : off.toNat + (m + n).toNat ≤ s.wlen.toNat := by omega
  have htext : s.wbufText off.toNat (m + n).toNat =
      s.wbufText off.toNat m.toNat ++ s.wbufText (off + m).toNat n.toNat := by
    rw [hlen, hoff, wbufText_add]
  refine ⟨fun hm hn hhex => ?_, ?_⟩
  · have hhexSecond : ∀ j, j < n.toNat → isHexDigit (s.wbuf ((off + m).toNat + j)) = true := fun j hj => by
      rw [hoff, Nat.add_assoc]
      exact hhex (m.toNat + j) (by omega)
    refine ⟨_, _, _, exec_c16hex_window s hfirst hm fun j hj => hhex j (by omega),
      exec_c16hex_window _ hsecond hn hhexSecond, exec_c16hex_window s hwhole (by omega) (hlen ▸ hhex), ?_⟩
    simp only [htext, bytesOf_append _ _ (show (s.wbufText off.toNat m.toNat).length % 2 = 0 by simpa using hm),
      List.foldl_append]
    rfl
  · refine ⟨_, _, _, exec_c8text_window s hfirst, exec_c8text_window _ hsecond, exec_c8text_window s hwhole, ?_⟩
    simp only [htext, List.foldl_append]
    rfl

/-! ## Frames -/

/-- Settles O56: read off the list of effects. -/
theorem crcAndAddressCommandFrames : Obligations.CrcAndAddressCommandFrames := by
  intro i s t h
  have ht := exec_effect h
  refine ⟨?_, ?_, ?_, fun hi off => ?_⟩
  · rintro (rfl | rfl | ⟨b, rfl⟩)
    · obtain rfl := ht
      rfl
    · obtain ⟨e, -, rfl⟩ | ⟨-, -, -, rfl⟩ := ht <;> rfl
    · obtain rfl := ht
      rfl
  · rintro (rfl | rfl | ⟨x, rfl⟩)
    · obtain rfl := ht
      rfl
    · obtain rfl | ⟨-, rfl⟩ := ht <;> rfl
    · obtain rfl := ht
      rfl
  · rintro (rfl | rfl | ⟨k, rfl⟩)
    · obtain rfl := ht
      rfl
    · obtain rfl | ⟨-, rfl⟩ := ht <;> rfl
    · obtain ⟨v, rfl⟩ | rfl := ht <;> rfl
  · have hf := effect_frame ht
    have hmem : t.mem = s.mem := hf.mem (by rintro rfl; simp at hi) (by rintro rfl; simp at hi)
    rw [State.cell, State.cell, hmem, hf.resets]

end Sys2Proof.Machine

namespace Sys2Proof.Machine

/-! ## A field of a word as a number -/

theorem toNat_field {w : Nat} (x : BitVec w) (lo n : Nat) : (x.extractLsb' lo n).toNat = x.toNat / 2 ^ lo % 2 ^ n := by
  rw [BitVec.extractLsb'_toNat, Nat.shiftRight_eq_div_pow]

/-! ## AENC (42_address.md R100, R101) -/

theorem getLsbD_rev21 (x : BitVec 21) {i : Nat} (hi : i ≤ 20) : (rev21 x).getLsbD (20 - i) = x.getLsbD i := by
  rw [rev21, BitVec.getLsbD_reverse, BitVec.getMsbD_eq_getLsbD, decide_eq_true (by omega), Bool.true_and]
  congr 1
  omega

/-- Bit `i` goes to bit `20 - i` and from there back to bit `i`. -/
theorem rev21_rev21 (x : BitVec 21) : rev21 (rev21 x) = x := by
  apply BitVec.eq_of_getLsbD_eq
  intro i hi
  calc (rev21 (rev21 x)).getLsbD i
    _ = (rev21 (rev21 x)).getLsbD (20 - (20 - i)) := by rw [Nat.sub_sub_self (by omega)]
    _ = (rev21 x).getLsbD (20 - i) := getLsbD_rev21 _ (by omega)
    _ = x.getLsbD i := getLsbD_rev21 x (by omega)

/-- Neither the shift nor the sum of `encodeAddress` wraps (42_address.md R106). -/
theorem toNat_encodeAddress (a : BitVec 24) :
    (encodeAddress a).toNat = 2 * (rev21 (a.extractLsb' 0 21)).toNat + a.toNat / 2 ^ 21 := by
  have ha := a.isLt
  have hr := (rev21 (a.extractLsb' 0 21)).isLt
  have hshift : ((rev21 (a.extractLsb' 0 21)).setWidth 24 <<< 1).toNat = 2 * (rev21 (a.extractLsb' 0 21)).toNat := by
    rw [BitVec.toNat_shiftLeft, BitVec.toNat_setWidth_of_le (by decide), Nat.shiftLeft_eq]
    omega
  have hbutton : ((a.extractLsb' 21 3).setWidth 24).toNat = a.toNat / 2 ^ 21 := by
    rw [BitVec.toNat_setWidth_of_le (by decide), toNat_field]
    omega
  rw [encodeAddress, BitVec.toNat_add_of_lt (by omega), hshift, hbutton]

theorem encodeAddress_le (a : BitVec 24) : (encodeAddress a).toNat ≤ 0x400005 := by
  have ha := a.isLt
  have hr := (rev21 (a.extractLsb' 0 21)).isLt
  rw [toNat_encodeAddress]
  omega

@[simp] theorem exec_aenc (s : State) : exec .aenc s = .next { s with aout := encodeAddress s.ain, unres := false } := rfl

/-- Settles O31: the reversal in AOUT is that of the low 21 bits of AIN. -/
theorem aencEncodesTheAddress : Obligations.AencEncodesTheAddress := by
  refine ⟨by decide, fun x => ⟨fun i hi => getLsbD_rev21 x hi, rev21_rev21 x⟩, fun s =>
    ⟨_, exec_aenc s, ⟨rev21 (s.ain.extractLsb' 0 21), fun i hi => ?_, toNat_encodeAddress s.ain⟩,
      encodeAddress_le s.ain, rfl, rfl⟩⟩
  have hlow : i < 21 := by omega
  rw [getLsbD_rev21 _ hi, BitVec.getLsbD_extractLsb', decide_eq_true hlow, Bool.true_and, Nat.zero_add]

/-! ## AKEY (42_address.md R102) -/

/-- The fifth bit of the sum takes the carry. -/
theorem toNat_keySum (a : BitVec 24) (k : BitVec 4) : (keySum a k).toNat = a.toNat / 2 ^ 20 + k.toNat := by
  have ha := a.isLt
  have hk := k.isLt
  have htop : ((a.extractLsb' 20 4).setWidth 5).toNat = a.toNat / 2 ^ 20 := by
    rw [BitVec.toNat_setWidth_of_le (by decide), toNat_field]
    omega
  have hkey : (k.setWidth 5).toNat = k.toNat := BitVec.toNat_setWidth_of_le (by decide)
  rw [keySum, BitVec.toNat_add_of_lt (by omega), htop, hkey]

theorem toNat_nibbleOf {k : Byte} (hk : k.toNat ≤ 15) : (nibbleOf k).toNat = k.toNat := by
  rw [nibbleOf, toNat_field]
  omega

/-- AOUT with the sum of AKEY in its top nibble. -/
def keyedAddress (a : BitVec 24) (k : BitVec 4) : BitVec 24 := (keySum a k).extractLsb' 0 4 ++ a.extractLsb' 0 20

/-- A sum that fits in the nibble is an addition to the whole address. -/
theorem toNat_keyedAddress {a : BitVec 24} {k : BitVec 4} (hfit : a.toNat / 2 ^ 20 + k.toNat ≤ 15) :
    (keyedAddress a k).toNat = a.toNat + k.toNat * 2 ^ 20 := by
  have happend : (keyedAddress a k).toNat = ((keySum a k).extractLsb' 0 4).toNat * 2 ^ 20 + (a.extractLsb' 0 20).toNat :=
    toNat_append_eq_add _ _
  rw [happend, toNat_field, toNat_field, toNat_keySum]
  omega

section
variable {s : State} {k : Byte}

theorem exec_akey_of_fits (hfit : (keySum s.aout (nibbleOf k)).toNat ≤ 15) :
    exec (.akey k) s = .next { s with aout := keyedAddress s.aout (nibbleOf k), unres := false } := by
  rw [exec, execAkey, if_pos hfit, attempt_ok, keyedAddress]

theorem exec_akey_of_overflow (hover : 15 < (keySum s.aout (nibbleOf k)).toNat) :
    exec (.akey k) s = .next { s with unres := true } := by
  rw [exec, execAkey, if_neg (by omega), attempt_ok]

end

/-- Settles O32: the two branches, with the 5-bit sum read as a number. -/
theorem akeyAddsOrReportsUnresolved : Obligations.AkeyAddsOrReportsUnresolved := by
  refine ⟨fun k => encode_eq_opcode_add_imm8 (.akey k), fun s k hk => ?_⟩
  have hsum : (keySum s.aout (nibbleOf k)).toNat = s.aout.toNat / 2 ^ 20 + k.toNat := by
    rw [toNat_keySum, toNat_nibbleOf hk]
  refine ⟨fun hfit => ⟨_, exec_akey_of_fits (hsum ▸ hfit), ?_, rfl⟩, fun hover => exec_akey_of_overflow (hsum ▸ hover)⟩
  rw [← toNat_nibbleOf hk] at hfit ⊢
  exact toNat_keyedAddress hfit

/-! ## ASWAP (42_address.md R104) -/

/-- AIN holds an address of at most 16 bits where its top byte is 0. -/
theorem addrTop_eq_zero_iff {s : State} : s.addrTop = 0 ↔ s.ain.toNat < 2 ^ 16 := by
  have hain := s.ain.isLt
  have htop : s.addrTop.toNat = s.ain.toNat / 2 ^ 16 % 2 ^ 8 := toNat_field s.ain 16 8
  rw [← BitVec.toNat_inj, htop, BitVec.ofNat_eq_ofNat, BitVec.toNat_zero]
  omega

/-- The two low bytes swapped, and a zero byte above them. -/
def swapBytes (a : BitVec 24) : BitVec 24 := (0 : BitVec 8) ++ a.extractLsb' 0 8 ++ a.extractLsb' 8 8

section
variable {a : BitVec 24} (ha : a.toNat < 2 ^ 16)
include ha

theorem toNat_swapBytes : (swapBytes a).toNat = a.toNat % 256 * 256 + a.toNat / 256 := by
  rw [swapBytes, toNat_append_eq_add, toNat_append_eq_add, toNat_field, toNat_field, BitVec.ofNat_eq_ofNat,
    BitVec.toNat_zero]
  omega

theorem swapBytes_lt : (swapBytes a).toNat < 2 ^ 16 := by
  rw [toNat_swapBytes ha]
  omega

theorem swapBytes_swapBytes : swapBytes (swapBytes a) = a := by
  apply BitVec.eq_of_toNat_eq
  rw [toNat_swapBytes (swapBytes_lt ha), toNat_swapBytes ha]
  omega

end

section
variable {s : State}

theorem exec_aswap_of_wide (hwide : 2 ^ 16 ≤ s.ain.toNat) : exec .aswap s = .next (raiseErr .badArg s) := by
  rw [exec, execAswap, if_pos (mt addrTop_eq_zero_iff.1 (by omega)), attempt_error]

theorem exec_aswap_of_narrow (hnarrow : s.ain.toNat < 2 ^ 16) :
    exec .aswap s = .next { s with aout := swapBytes s.ain, unres := false } := by
  rw [exec, execAswap, if_neg (not_not_intro (addrTop_eq_zero_iff.2 hnarrow)), attempt_ok]
  rfl

end

/-- Settles O33: the two branches; a swapped address has 16 bits again, so the second ASWAP is not refused. -/
theorem aswapSwapsTheAddressBytes : Obligations.AswapSwapsTheAddressBytes :=
  ⟨by decide, fun _ => ⟨exec_aswap_of_wide, fun hnarrow =>
    ⟨_, exec_aswap_of_narrow hnarrow, toNat_swapBytes hnarrow, rfl,
      _, exec_aswap_of_narrow (swapBytes_lt hnarrow), swapBytes_swapBytes hnarrow⟩⟩⟩

end Sys2Proof.Machine

namespace Sys2Proof.Machine

/-! ## The layout of a wire frame (43_frame_build.md R111) -/

/-- A middle part of a text is the slice between its ends. -/
theorem slice_of_eq_append {f p m q : Text} {a b : Nat} (hf : f = p ++ (m ++ q)) (ha : a = p.length)
    (hb : b = a + m.length) : slice f a b = m := by
  subst hf ha hb
  simp [slice]

section
variable (data : Text)

/-- The characters of a frame after its `$`, field by field. -/
def frameDigits : Text :=
  H2 (BitVec.ofNat 8 (data.length + lenBias)) ++
    (data ++ (H4 (crc16Hex (frameBody data)) ++ H2 (crc8 (frameHead data))))

theorem frameOf_eq_cons : frameOf data = dollar :: frameDigits data := by
  simp [frameOf, frameHead, frameDigits, frameBody]

theorem slice_frameOf_digits : slice (frameOf data) 1 (data.length + 9) = frameDigits data :=
  slice_of_eq_append (p := [dollar]) (q := []) (by simp [frameOf_eq_cons]) rfl (by simp [frameDigits]; omega)

theorem slice_frameOf_length_field :
    slice (frameOf data) 1 3 = H2 (BitVec.ofNat 8 (data.length + lenBias)) :=
  slice_of_eq_append (p := [dollar]) (frameOf_eq_cons data) rfl rfl

theorem slice_frameOf_data : slice (frameOf data) 3 (data.length + 3) = data :=
  slice_of_eq_append (p := dollar :: H2 (BitVec.ofNat 8 (data.length + lenBias))) (frameOf_eq_cons data) rfl (by omega)

theorem slice_frameOf_body : slice (frameOf data) 1 (data.length + 3) = frameBody data :=
  slice_of_eq_append (p := [dollar]) (frameOf_eq_cons data) rfl (by simp; omega)

theorem slice_frameOf_crc16_field :
    slice (frameOf data) (data.length + 3) (data.length + 7) = H4 (crc16Hex (frameBody data)) :=
  slice_of_eq_append (p := dollar :: frameBody data) (frameOf_eq_cons data) (by simp) (by simp)

theorem slice_frameOf_head : slice (frameOf data) 0 (data.length + 7) = frameHead data :=
  slice_of_eq_append (p := []) rfl rfl (by simp)

theorem slice_frameOf_crc8_field :
    slice (frameOf data) (data.length + 7) (data.length + 9) = H2 (crc8 (frameHead data)) :=
  slice_of_eq_append (p := frameHead data) (q := []) (by simp [frameOf]) (by simp) (by simp)

variable {data}

/-- The length field does not overflow its two digits (43_frame_build.md R112). -/
theorem hexval_length_field (hlen : data.length ≤ 245) :
    hexval (H2 (BitVec.ofNat 8 (data.length + lenBias))) = data.length + 10 := by
  rw [hexval_H2, BitVec.toNat_ofNat, lenBias]
  omega

theorem ishex_frameDigits (hhex : ishex data = true) : ishex (frameDigits data) = true := by
  simp [frameDigits, ishex_append, ishex_H2, ishex_H4, hhex]

/-- A legal terminator is neither `$` nor a hex digit (44_link.md R123). -/
theorem term_not_mem_frameOf {cfg : Config} (hc : ConfigLegal cfg) (hhex : ishex data = true) :
    cfg.term ∉ frameOf data := by
  rw [frameOf_eq_cons, List.mem_cons, not_or]
  exact ⟨hc.term_not_dollar, fun hmem =>
    Bool.false_ne_true (hc.term_not_hex.symm.trans (ishex_iff.1 (ishex_frameDigits hhex) _ hmem))⟩

end

/-! ## The data of the frame that FBUILD assembles (43_frame_build.md R110) -/

/-- The data characters: function code, address in wire order, window. -/
def State.builtData (s : State) : Text := frameData s.func s.addrLow s.addrHigh s.window

theorem builtFrame_eq_frameOf (s : State) : s.builtFrame = frameOf s.builtData := rfl

@[simp] theorem builtData_length (s : State) : s.builtData.length = s.blen.toNat + 6 := by
  simp [State.builtData]

theorem ishex_builtData {s : State} (hhex : ishex s.window = true) : ishex s.builtData = true := by
  simp [State.builtData, frameData, ishex_append, ishex_H2, hhex]

theorem frameBody_builtData (s : State) :
    frameBody s.builtData = H2 (BitVec.ofNat 8 (6 + s.blen.toNat + 10)) ++ s.builtData := by
  rw [frameBody, builtData_length, lenBias, Nat.add_comm s.blen.toNat 6]

/-! ## FBUILD, one lemma per branch of R110 -/

theorem ishex_window_eq_false {s : State}
    (hbad : ∃ j, j < s.blen.toNat ∧ isHexDigit (s.wbuf (s.boff.toNat + j)) = false) : ishex s.window = false := by
  obtain ⟨j, hj, hd⟩ := hbad
  exact Bool.eq_false_iff.2 fun h => Bool.false_ne_true (hd.symm.trans (ishex_wbufText_iff.1 h j hj))

section
variable {s : State}

theorem exec_fbuild_of_busy (hb : s.txbusy = true) : exec .fbuild s = .next (raiseErr .busy s) := by
  rw [exec, execFbuild, if_pos hb, attempt_error]

variable (hb : s.txbusy = false)
include hb

theorem exec_fbuild_of_outside (hw : s.wlen.toNat < s.boff.toNat + s.blen.toNat) :
    exec .fbuild s = .next (raiseErr .range s) := by
  rw [exec, execFbuild, if_neg (by simp [hb]), if_pos (not_windowIn_iff.2 hw), attempt_error]

variable (hw : s.boff.toNat + s.blen.toNat ≤ s.wlen.toNat)
include hw

theorem exec_fbuild_of_bad_argument (hbad : 2 ^ 16 ≤ s.ain.toNat ∨ s.blen.toNat % 2 = 1 ∨ 238 < s.blen.toNat) :
    exec .fbuild s = .next (raiseErr .badArg s) := by
  rw [exec, execFbuild, if_neg (by simp [hb]), if_neg (mt not_windowIn_iff.1 (by omega))]
  by_cases hwide : s.addrTop = 0
  · have hnarrow := addrTop_eq_zero_iff.1 hwide
    by_cases hodd : s.blen.toNat % 2 = 1
    · rw [if_neg (not_not_intro hwide), if_pos hodd, attempt_error]
    · rw [if_neg (not_not_intro hwide), if_neg hodd, if_pos (by rw [maxArgs]; omega), attempt_error]
  · rw [if_pos hwide, attempt_error]

variable (hnarrow : s.ain.toNat < 2 ^ 16) (heven : s.blen.toNat % 2 = 0) (hlen : s.blen.toNat ≤ 238)
include hnarrow heven hlen

/-- Past the argument checks only NOT_HEX is left. -/
theorem exec_fbuild_of_good_arguments : exec .fbuild s = attempt s (if !ishex s.window then .error .notHex
    else .ok { s.setCells txbufBase s.builtFrame with txlen := BitVec.ofNat 16 s.builtFrame.length }) := by
  rw [exec, execFbuild, if_neg (by simp [hb]), if_neg (mt not_windowIn_iff.1 (by omega)),
    if_neg (not_not_intro (addrTop_eq_zero_iff.2 hnarrow)), if_neg (by omega), if_neg (by rw [maxArgs]; omega)]

theorem exec_fbuild_of_not_hex
    (hbad : ∃ j, j < s.blen.toNat ∧ isHexDigit (s.wbuf (s.boff.toNat + j)) = false) :
    exec .fbuild s = .next (raiseErr .notHex s) := by
  rw [exec_fbuild_of_good_arguments hb hw hnarrow heven hlen, if_pos (by simp [ishex_window_eq_false hbad]),
    attempt_error]

end

/-- Settles O34: the refusing branches. -/
theorem fbuildRefusesInOrder : Obligations.FbuildRefusesInOrder := fun _ =>
  ⟨exec_fbuild_of_busy, exec_fbuild_of_outside, exec_fbuild_of_bad_argument, exec_fbuild_of_not_hex⟩

/-! ## An accepted FBUILD -/

/-- The state after an accepted FBUILD (43_frame_build.md R110). -/
def State.built (s : State) : State :=
  { s.setCells txbufBase s.builtFrame with txlen := BitVec.ofNat 16 s.builtFrame.length }

section
variable {s : State} (h : fbuildAccepts s)
include h

theorem ishex_window_of_accepts : ishex s.window = true := by
  obtain ⟨-, -, -, -, -, hhex⟩ := h
  exact ishex_wbufText_iff.2 hhex

theorem exec_fbuild_of_accepts : exec .fbuild s = .next s.built := by
  have hwindow := ishex_window_of_accepts h
  obtain ⟨hb, hw, hnarrow, heven, hlen, -⟩ := h
  rw [exec_fbuild_of_good_arguments hb hw hnarrow heven hlen, if_neg (by simp [hwindow]), attempt_ok, State.built]

theorem built_txlen : s.built.txlen.toNat = s.blen.toNat + 15 := by
  obtain ⟨-, -, -, -, hlen, -⟩ := h
  rw [State.built, BitVec.toNat_ofNat, builtFrame_length]
  omega

end

theorem built_cell_inside (s : State) {i : Nat} (hi : i < s.builtFrame.length) :
    s.built.cell (txbufBase + i) = s.builtFrame[i] :=
  State.cell_setCells_inside s txbufBase s.builtFrame i hi

theorem built_cell_outside (s : State) {y : Nat} (hy : y < txbufBase ∨ txbufBase + s.builtFrame.length ≤ y) :
    s.built.cell y = s.cell y :=
  State.cell_setCells_outside s txbufBase s.builtFrame y hy

theorem built_txbufText (s : State) : s.built.txbufText s.builtFrame.length = s.builtFrame :=
  List.ext_getElem (by simp) fun i _ hi => by
    simpa [State.txbufText, State.txbuf] using built_cell_inside s hi

/-! ## The digits of the frame's fields (00_scope.md R9) -/

theorem isHexDigit_iff {c : Byte} : isHexDigit c = true ↔ (0x30 ≤ c.toNat ∧ c.toNat ≤ 0x39) ∨
    (0x41 ≤ c.toNat ∧ c.toNat ≤ 0x46) ∨ (0x61 ≤ c.toNat ∧ c.toNat ≤ 0x66) := by
  simp [isHexDigit, or_assoc]

/-- A digit the block writes is a decimal digit or an uppercase letter (decision D5). -/
def IsUpperDigit (c : Byte) : Prop := (0x30 ≤ c.toNat ∧ c.toNat ≤ 0x39) ∨ (0x41 ≤ c.toNat ∧ c.toNat ≤ 0x46)

theorem isUpperDigit_hexChar {n : Nat} (hn : n < 16) : IsUpperDigit (hexChar n) := by
  unfold IsUpperDigit
  decide +revert

theorem isUpperDigit_of_mem_H2 {v c : Byte} (hc : c ∈ H2 v) : IsUpperDigit c := by
  have hv := v.isLt
  obtain rfl | rfl : c = hexChar (v.toNat / 16) ∨ c = hexChar (v.toNat % 16) := by simpa [H2] using hc
  · exact isUpperDigit_hexChar (by omega)
  · exact isUpperDigit_hexChar (by omega)

/-- Settles O35: the statement's pieces join to `builtFrame`, and FBUILD stores that from TXBUF[0]. -/
theorem fbuildWritesTheFrame : Obligations.FbuildWritesTheFrame := by
  refine ⟨by decide, fun _ => isHexDigit_iff, by decide, by decide,
    fun v => ⟨H2_length v, hexval_H2 v, fun _ => isUpperDigit_of_mem_H2⟩, fun _ => rfl, ?_⟩
  intro s h args data body head f
  have hf : f = s.builtFrame := by
    rw [builtFrame_eq_frameOf, frameOf, frameHead, frameBody_builtData]
    rfl
  rw [hf]
  exact ⟨s.built, exec_fbuild_of_accepts h, built_txlen h, builtFrame_length s, fun _ => built_cell_inside s,
    fun _ => built_cell_outside s, rfl⟩

/-- Settles O36: TXBUF then holds `frameOf` of the data, whose layout holds for all data short enough for the length field. -/
theorem builtFrameHasTheWireLayout : Obligations.BuiltFrameHasTheWireLayout := by
  intro s h
  have hhex := ishex_builtData (ishex_window_of_accepts h)
  have htext : s.built.txbufText s.built.txlen.toNat = frameOf s.builtData := by
    rw [built_txlen h, ← builtFrame_length, built_txbufText, builtFrame_eq_frameOf]
  have hdata : s.builtData.length ≤ 245 := by
    obtain ⟨-, -, -, -, hlen, -⟩ := h
    rw [builtData_length]
    omega
  refine ⟨s.built, exec_fbuild_of_accepts h, ?_⟩
  simp only [htext, frameOf_length, Nat.reduceSubDiff]
  refine ⟨rfl, ?_, slice_frameOf_data _, ?_, ?_, ?_, fun hc => term_not_mem_frameOf hc hhex⟩
  · rw [slice_frameOf_length_field, hexval_length_field hdata]
  · rw [slice_frameOf_digits, ishex_frameDigits hhex]
  · rw [slice_frameOf_crc16_field, slice_frameOf_body, hexval_H4]
  · rw [slice_frameOf_crc8_field, slice_frameOf_head, hexval_H2]

/-! ## Frames of the storing and link commands -/

/-- Settles O58: read off the list of effects; the two storing commands write one text each. -/
theorem storingAndLinkCommandFrames : Obligations.StoringAndLinkCommandFrames := by
  intro i s t h
  have ht := exec_effect h
  refine ⟨?_, ?_, ?_, ?_⟩ <;> rintro rfl
  · obtain ⟨e, -, rfl⟩ | ⟨-, -, -, -, -, -, rfl⟩ := ht
    · exact ⟨rfl, fun _ _ => rfl⟩
    · exact ⟨rfl, fun _ => built_cell_outside s⟩
  · obtain ⟨-, rfl⟩ | ⟨line, rest, hq, rfl⟩ := ht
    · exact ⟨rfl, fun _ _ => rfl⟩
    · refine ⟨rfl, fun y hy => State.cell_setCells_outside s wbufBase line y ?_⟩
      rwa [hq, List.headD_cons] at hy
  · obtain ⟨-, rfl⟩ | ⟨-, rfl⟩ := ht <;> exact ⟨rfl, fun _ => rfl⟩
  · obtain rfl := ht
    exact ⟨rfl, fun _ => rfl⟩

end Sys2Proof.Machine

namespace Sys2Proof.Machine

/-! ## What a transmission locks (44_link.md R121, R126) -/

/-- The transmitter is as before, with every byte of TXBUF. -/
structure SameTransmitter (s t : State) : Prop where
  txbusy : t.txbusy = s.txbusy
  txlen : t.txlen = s.txlen
  txpos : t.txpos = s.txpos
  txLine : t.txLine = s.txLine
  txbuf : ∀ i, i < 256 → t.txbuf i = s.txbuf i

/-- A state that differs in none of the fields in which the transmitter and the buffers are held. -/
theorem SameTransmitter.of_kept {s t : State}
    (h : (t.txbusy, t.txlen, t.txpos, t.txLine, t.mem, t.resets) =
      (s.txbusy, s.txlen, s.txpos, s.txLine, s.mem, s.resets)) : SameTransmitter s t := by
  simp only [Prod.mk.injEq] at h
  obtain ⟨hbusy, hlen, hpos, hline, hmem, hresets⟩ := h
  refine ⟨hbusy, hlen, hpos, hline, fun i _ => ?_⟩
  rw [State.txbuf, State.txbuf, State.cell, State.cell, hmem, hresets]

/-- WBUF lies above TXBUF (20_memory.md R51). -/
theorem txbuf_setCells_of_wbuf (s : State) {off : Nat} (hoff : wbufBase ≤ off) (line : Text) {i : Nat}
    (hi : i < 256) : (s.setCells off line).txbuf i = s.txbuf i :=
  State.cell_setCells_outside s off line _ (.inl (by simp only [txbufBase, wbufBase] at hoff ⊢; omega))

/-- While TXBUSY = 1, FBUILD and TXSTART are refused, and only SRESET of the other commands has the transmitter. -/
theorem effect_sameTransmitter {i : Instr} {s t : State} (hb : s.txbusy = true) (hi : i ≠ .sreset)
    (ht : Effect i s t) : SameTransmitter s t := by
  cases i with
  | sreset => exact absurd rfl hi
  | fbuild =>
    obtain ⟨e, -, rfl⟩ | ⟨hidle, -⟩ := ht
    · exact .of_kept rfl
    · simp [hb] at hidle
  | txstart =>
    obtain ⟨-, rfl⟩ | ⟨hidle, -⟩ := ht
    · exact .of_kept rfl
    · simp [hb] at hidle
  | rxpop =>
    obtain ⟨-, rfl⟩ | ⟨line, rest, -, rfl⟩ := ht
    · exact .of_kept rfl
    · exact ⟨rfl, rfl, rfl, rfl, fun _ => txbuf_setCells_of_wbuf s le_rfl line⟩
  | nop | c16init | c16byte b | c8init | c8byte x | aenc | fvalid | rxflush =>
    simp only [Effect] at ht
    subst ht
    exact .of_kept rfl
  | c16hex => obtain ⟨e, -, rfl⟩ | ⟨-, -, -, rfl⟩ := ht <;> exact .of_kept rfl
  | c8text | aswap => obtain rfl | ⟨-, rfl⟩ := ht <;> exact .of_kept rfl
  | akey k => obtain ⟨v, rfl⟩ | rfl := ht <;> exact .of_kept rfl
  | mack => obtain rfl | ⟨p, rfl⟩ := ht <;> exact .of_kept rfl
  | mans v =>
    obtain rfl | rfl | ⟨p, a, b, rfl⟩ | ⟨p, rfl⟩ := ht <;> exact .of_kept rfl
  | chunk n => obtain rfl | ⟨k, -, rfl⟩ | ⟨p, rfl⟩ := ht <;> exact .of_kept rfl
  | hexget n => obtain ⟨e, -, rfl⟩ | ⟨v, rfl⟩ := ht <;> exact .of_kept rfl

/-- While TXBUSY = 1 a write of TXLEN is refused, and no other register has the transmitter. -/
theorem writeReg_sameTransmitter {s : State} (hb : s.txbusy = true) (r : Reg) (v : Word) :
    SameTransmitter s (settled s (writeReg r v s)) := by
  cases r with
  | ctrl =>
    change SameTransmitter s (writeCtrl v s)
    rcases writeCtrl_cases v s with h | h <;> rw [h] <;> exact .of_kept rfl
  | wlen =>
    change SameTransmitter s (settled s (writeWlen v s))
    rcases writeWlen_cases v s with h | ⟨-, h⟩ <;> rw [h] <;> exact .of_kept rfl
  | txlen =>
    change SameTransmitter s (settled s (writeTxlen v s))
    rw [writeTxlen_busy hb]
    exact .of_kept rfl
  | _ => exact .of_kept rfl

/-- RXE has nothing of the transmitter. -/
theorem rxeStep_sameTransmitter (c : Byte) (s : State) : SameTransmitter s (rxeStep c s) := by
  rcases rxeStep_cases c s with ⟨-, ht⟩ | ⟨-, -, -, ht⟩ | ⟨-, -, -, -, ht⟩ | ⟨-, -, -, -, -, ht⟩ |
    ⟨-, -, -, -, -, ht⟩ | ⟨-, -, -, ht⟩ | ⟨-, -, -, -, ht⟩ | ⟨-, -, -, -, ht⟩ <;> rw [ht] <;>
    exact .of_kept rfl

/-- All that a step can do to a transmission in progress. -/
inductive TransmissionStep (s t : State) : Prop
  | kept (h : SameTransmitter s t)
  /-- TXE emits the next character. -/
  | sent (htxlen : t.txlen = s.txlen) (htxbuf : ∀ i, t.txbuf i = s.txbuf i)
    (htxpos : t.txpos.toNat = s.txpos.toNat + 1) (hline : t.txLine = s.txLine ++ [s.txbuf s.txpos.toNat])
    (hbusy : t.txbusy = true)
  /-- The transmission ends: by TXE, by a reset, or by the one host access that can end it, the CMD write of SRESET. -/
  | ended (hidle : t.txbusy = false)
    (hp : ∀ a rest, s.pending = .host a :: rest → a = .write (s.cfg.base + 0x008) .word 0x00000001)

/-- The position after the next one; it does not wrap below TXLEN. -/
theorem toNat_add_one_of_lt {p n : BitVec 16} (h : p.toNat < n.toNat) : (p + 1).toNat = p.toNat + 1 := by
  have hn := n.isLt
  rw [BitVec.toNat_add]
  exact Nat.mod_eq_of_lt (by simp; omega)

/-- TXE's step, with `u` as `s` after the event is taken. -/
theorem transmissionStep_txe {s u : State} (hu : u = { s with pending := u.pending }) (hb : s.txbusy = true)
    (hp : ∀ a rest, s.pending ≠ .host a :: rest) : TransmissionStep s (txeStep u) := by
  rw [hu]
  rcases txeStep_cases { s with pending := u.pending } with ⟨hidle, -⟩ | ⟨-, hlt, ht⟩ | ⟨-, -, ht⟩
  · simp [hb] at hidle
  · rw [ht]
    exact .sent rfl (fun _ => rfl) (toNat_add_one_of_lt hlt) rfl hb
  · rw [ht]
    exact .ended rfl fun a rest h => absurd h (hp a rest)

/-- Every step is one of these. -/
theorem transmissionStep {s t : State} (hb : s.txbusy = true) (h : step s = .next t) : TransmissionStep s t := by
  cases step_by h with
  | idle hp => exact transmissionStep_txe rfl hb (by simp [hp])
  | txe rest hp => exact transmissionStep_txe rfl hb (by simp [hp])
  | rxChar c rest hp => exact .kept { rxeStep_sameTransmitter c { s with pending := rest } with }
  | hardReset rest hp => exact .ended rfl (by simp [hp])
  | answer a r rest hp => exact .kept (.of_kept rfl)
  | illegal w e rest hp hw => exact .kept (.of_kept rfl)
  | command w i _ rest hp hw ht =>
    by_cases hi : i = .sreset
    · subst hi
      obtain rfl : encode .sreset = w := encode_of_decode_ok hw
      rw [show t = softReset _ from ht]
      refine .ended rfl fun a rest' h => ?_
      rw [hp] at h
      cases h
      rfl
    · exact .kept { effect_sameTransmitter (s := { s with pending := rest, resp := .written }) hb hi ht with }
  | register r v rest hp =>
    exact .kept { writeReg_sameTransmitter (s := { s with pending := rest, resp := .written }) hb r v with }
  | txbuf a i b rest hp hi =>
    rw [writeTxbuf_busy (s := { s with pending := rest, resp := .written }) i b hb]
    exact .kept (.of_kept rfl)
  | wbuf a i b rest hp hi =>
    exact .kept ⟨rfl, rfl, rfl, rfl,
      fun _ => txbuf_setCells_of_wbuf { s with pending := rest, resp := .written } (Nat.le_add_right wbufBase i) [b]⟩

/-- Settles O43: a step that leaves the transmission in progress keeps the transmitter or emits the next character. -/
theorem transmittedTextIsLocked : Obligations.TransmittedTextIsLocked := by
  intro s t hstep hb hbusy
  cases transmissionStep hb hstep with
  | kept h => exact ⟨h.txlen, h.txbuf, .inl ⟨h.txpos, h.txLine⟩⟩
  | sent htxlen htxbuf htxpos hline => exact ⟨htxlen, fun i _ => htxbuf i, .inr ⟨htxpos, hline⟩⟩
  | ended hidle => simp [hbusy] at hidle

/-! ## TXSTART (44_link.md R125) -/

theorem exec_txstart_of_busy {s : State} (hb : s.txbusy = true) : exec .txstart s = .next (raiseErr .busy s) := by
  rw [exec, execTxstart, if_pos hb, attempt_error]

theorem exec_txstart_of_idle {s : State} (hb : s.txbusy = false) :
    exec .txstart s = .next { s with txpos := 0, txbusy := true } := by
  rw [exec, execTxstart, if_neg (by simp [hb]), attempt_ok]

/-- Settles O40: the two branches. -/
theorem txstartStartsOrIsBusy : Obligations.TxstartStartsOrIsBusy :=
  ⟨by decide, fun _ => ⟨exec_txstart_of_idle, exec_txstart_of_busy⟩⟩

/-- Settles O17: each write and command is refused in its busy branch, reads are answered in every state, and of the
steps that end a transmission only one is a host access. -/
theorem busyTransmitterRefusesChanges : Obligations.BusyTransmitterRefusesChanges := by
  refine fun s hb => ⟨fun i v rest hi hp => ?_, fun v rest hp => ?_, exec_fbuild_of_busy hb, exec_txstart_of_busy hb,
    fun i rest hi hp => step_of_read (busTarget_txbuf s.cfg i hi) hp, fun r rest hp => step_of_rdEvent hp,
    fun a rest t hp hstep hidle => ?_⟩
  · rw [step_of_txbufWrite hi hp, writeTxbuf_busy (s := { s with pending := rest, resp := .written }) _ _ hb]
    rfl
  · rw [step_of_wrEvent (by decide) hp, writeReg,
      writeTxlen_busy (s := { s with pending := rest, resp := .written }) hb]
    rfl
  · cases transmissionStep hb hstep with
    | kept h => simp [h.txbusy, hb] at hidle
    | sent _ _ _ _ hbusy => simp [hbusy] at hidle
    | ended _ hcause => exact hcause a rest hp

/-! ## A whole transmission (44_link.md R121, R122) -/

section
variable {s : State} {rest : List Event} (hp : s.pending = .txe :: rest)
include hp

theorem step_of_txe : step s = .next (txeStep { s with pending := rest }) := step_of_done hp rfl

theorem step_of_txe_character (hb : s.txbusy = true) (h : s.txpos.toNat < s.txlen.toNat) :
    step s = .next { s with
      pending := rest, txLine := s.txLine ++ [s.txbuf s.txpos.toNat], txpos := s.txpos + 1 } :=
  (step_of_txe hp).trans (congrArg _ (txeStep_character (s := { s with pending := rest }) hb h))

theorem step_of_txe_terminator (hb : s.txbusy = true) (h : s.txlen.toNat ≤ s.txpos.toNat) :
    step s = .next { s with
      pending := rest, txLine := s.txLine ++ [s.cfg.term], txbusy := false, txdone := true } :=
  (step_of_txe hp).trans (congrArg _ (txeStep_terminator (s := { s with pending := rest }) hb h))

theorem step_of_txe_idle (hb : s.txbusy = false) : step s = .next { s with pending := rest } :=
  (step_of_txe hp).trans (congrArg _ (txeStep_idle (s := { s with pending := rest }) hb))

end

/-- Settles O41: the three branches. -/
theorem txeStepEmitsCharacterOrTerminator : Obligations.TxeStepEmitsCharacterOrTerminator := fun _ _ hp =>
  ⟨step_of_txe_character hp, step_of_txe_terminator hp, step_of_txe_idle hp⟩

/-- `TXBUF[a .. a+n)`; from index 0 it is `txbufText`. -/
def State.txTextFrom (s : State) (a n : Nat) : Text := (List.range n).map fun i => s.txbuf (a + i)

theorem txTextFrom_succ (s : State) (a n : Nat) : s.txTextFrom a (n + 1) = s.txbuf a :: s.txTextFrom (a + 1) n := by
  simp [State.txTextFrom, List.range_succ_eq_map, Function.comp_def, Nat.add_right_comm a, Nat.add_assoc]

theorem txTextFrom_zero (s : State) (n : Nat) : s.txTextFrom 0 n = s.txbufText n := by
  simp [State.txTextFrom, State.txbufText]

/-- The state after the last `n` characters and the terminator are emitted. -/
def State.transmitted (s : State) (n : Nat) (rest : List Event) : State :=
  { s with
    txLine := s.txLine ++ s.txTextFrom s.txpos.toNat n ++ [s.cfg.term]
    txbusy := false, txdone := true, txpos := s.txlen, pending := rest }

theorem transmitted_zero {s : State} (rest : List Event) (hpos : s.txpos = s.txlen) : s.transmitted 0 rest =
    { s with pending := rest, txLine := s.txLine ++ [s.cfg.term], txbusy := false, txdone := true } := by
  simp [State.transmitted, State.txTextFrom, hpos]

/-- One character more is one step of TXE before. -/
theorem transmitted_succ {s : State} (evs rest : List Event) (n : Nat)
    (hpos : (s.txpos + 1).toNat = s.txpos.toNat + 1) :
    s.transmitted (n + 1) rest = State.transmitted { s with
      pending := evs, txLine := s.txLine ++ [s.txbuf s.txpos.toNat], txpos := s.txpos + 1 } n rest := by
  rw [State.transmitted, State.transmitted, txTextFrom_succ, ← hpos, List.append_cons s.txLine]
  rfl

/-- With `n` characters left, `n + 1` steps of TXE end the transmission. -/
theorem run_transmission {s : State} {n : Nat} {rest : List Event} (hb : s.txbusy = true)
    (hn : s.txpos.toNat + n = s.txlen.toNat) (hp : s.pending = List.replicate (n + 1) .txe ++ rest) :
    Host.Core.run Sys2Proof.core (n + 1) s = .next (s.transmitted n rest) := by
  induction n generalizing s with
  | zero =>
    rw [transmitted_zero rest (BitVec.eq_of_toNat_eq hn)]
    exact run_succ 0 (step_of_txe_terminator hp hb (by omega))
  | succ n ih =>
    have hlt : s.txpos.toNat < s.txlen.toNat := by omega
    have hpos := toNat_add_one_of_lt hlt
    rw [run_succ _ (step_of_txe_character hp hb hlt), transmitted_succ _ _ _ hpos]
    refine ih (s := { s with pending := _, txLine := _, txpos := s.txpos + 1 }) hb ?_ rfl
    simp only [hpos]
    omega

/-- TXSTART, and then the transmission from position 0. -/
theorem run_txstart {s : State} {rest : List Event} (hb : s.txbusy = false)
    (hp : s.pending = cmdWrite s.cfg 0x00000040 :: List.replicate (s.txlen.toNat + 1) .txe ++ rest) :
    Host.Core.run Sys2Proof.core (s.txlen.toNat + 2) s = .next { s with
      txLine := s.txLine ++ s.txbufText s.txlen.toNat ++ [s.cfg.term]
      txdone := true, txpos := s.txlen, pending := rest, resp := .written } := by
  have hstart : step s = .next { s with
      pending := List.replicate (s.txlen.toNat + 1) .txe ++ rest, resp := .written, txpos := 0, txbusy := true } :=
    (step_of_legal_cmdWrite hp (by decide)).trans (exec_txstart_of_idle hb)
  refine (run_succ _ hstart).trans ((run_transmission rfl (Nat.zero_add _) rfl).trans ?_)
  rw [State.transmitted, hb, ← txTextFrom_zero]
  rfl

/-- Settles O42: read off the run of TXSTART. -/
theorem transmissionEmitsTheTextAndTerminator : Obligations.TransmissionEmitsTheTextAndTerminator :=
  fun _ _ hb hp => ⟨_, run_txstart hb hp, rfl, hb, rfl, rfl, rfl⟩

/-! ## RXFLUSH and RXPOP (44_link.md R131, R133) -/

@[simp] theorem exec_rxflush (s : State) :
    exec .rxflush s = .next { s with rxq := [], part := [], discard := false } := rfl

theorem rxcntWord_of_empty {s : State} (hq : s.rxq = []) (hp : s.part = []) (hd : s.discard = false) :
    s.rxcntWord = 0 := by
  rw [State.rxcntWord, hq, hp, hd]
  decide

/-- Settles O47: nothing is left to count. -/
theorem rxflushDiscardsReceivedData : Obligations.RxflushDiscardsReceivedData :=
  ⟨by decide, fun s => ⟨_, exec_rxflush s, rfl, rxcntWord_of_empty rfl rfl rfl⟩⟩

/-- Settles O46: RXPOP stores one text, and its length fits WLEN. -/
theorem rxpopMovesTheOldestLine : Obligations.RxpopMovesTheOldestLine := by
  refine ⟨by decide, fun s => ⟨exec_rxpop_nil, fun oldest others hq hlen => ?_⟩⟩
  refine ⟨_, exec_rxpop_cons hq, ?_, fun i => State.cell_setCells_inside s wbufBase oldest i,
    fun y => State.cell_setCells_outside s wbufBase oldest y, rfl⟩
  rw [BitVec.toNat_ofNat]
  omega

/-! ## RXE's step (44_link.md R127) -/

section
variable {s : State} {c : Byte}

theorem rxeStep_of_disabled (he : s.rxen = false) : rxeStep c s = s := if_pos (by simp [he])

section
variable (he : s.rxen = true)
include he

theorem rxeStep_term : rxeStep s.cfg.term s = rxeTerminator s := by
  rw [rxeStep, if_neg (by simp [he]), if_pos rfl]

theorem rxeStep_char (hc : c ≠ s.cfg.term) : rxeStep c s = rxeCharacter c s := by
  rw [rxeStep, if_neg (by simp [he]), if_neg hc]

end

theorem rxeTerminator_of_discard (hd : s.discard = true) : rxeTerminator s = { s with discard := false, part := [] } :=
  if_pos hd

theorem rxeCharacter_of_discard (hd : s.discard = true) : rxeCharacter c s = s := if_pos hd

variable (hd : s.discard = false)
include hd

theorem rxeTerminator_of_empty (hp : s.part = []) : rxeTerminator s = s := by
  rw [rxeTerminator, if_neg (by simp [hd]), if_pos (by simp [hp]), ← hp]

theorem rxeTerminator_of_full (hp : s.part ≠ []) (hq : s.rxq.length = s.cfg.rxqDepth) :
    rxeTerminator s = { s with ovr := true, part := [] } := by
  rw [rxeTerminator, if_neg (by simp [hd]), if_neg (by simp [hp]), if_pos hq]

theorem rxeTerminator_of_room (hp : s.part ≠ []) (hq : s.rxq.length ≠ s.cfg.rxqDepth) :
    rxeTerminator s = { s with rxq := s.rxq ++ [s.part], part := [] } := by
  rw [rxeTerminator, if_neg (by simp [hd]), if_neg (by simp [hp]), if_neg hq]

theorem rxeCharacter_of_short (hl : s.part.length < maxLine) : rxeCharacter c s = { s with part := s.part ++ [c] } := by
  rw [rxeCharacter, if_neg (by simp [hd]), if_pos hl]

theorem rxeCharacter_of_long (hl : maxLine ≤ s.part.length) :
    rxeCharacter c s = { s with long := true, discard := true, part := [] } := by
  rw [rxeCharacter, if_neg (by simp [hd]), if_neg (Nat.not_lt.2 hl)]

end

theorem step_of_rxChar {s : State} {c : Byte} {rest : List Event} (hp : s.pending = .rxChar c :: rest) :
    step s = .next (rxeStep c { s with pending := rest }) := step_of_done hp rfl

section
variable {s : State} {c : Byte} {rest : List Event} (hp : s.pending = .rxChar c :: rest)
include hp

theorem step_of_rxChar_term (he : s.rxen = true) (hc : c = s.cfg.term) :
    step s = .next (rxeTerminator { s with pending := rest }) := by
  rw [step_of_rxChar hp, hc]
  exact congrArg _ (rxeStep_term (s := { s with pending := rest }) he)

theorem step_of_rxChar_char (he : s.rxen = true) (hc : c ≠ s.cfg.term) :
    step s = .next (rxeCharacter c { s with pending := rest }) :=
  (step_of_rxChar hp).trans (congrArg _ (rxeStep_char (s := { s with pending := rest }) he hc))

end

/-- Settles O44: the terminator and a character, each branch by branch. -/
theorem rxeStepFollowsTheReceiveRule : Obligations.RxeStepFollowsTheReceiveRule := fun _ _ _ hp =>
  ⟨fun he => (step_of_rxChar hp).trans (congrArg _ (rxeStep_of_disabled he)),
    fun he hc hd => (step_of_rxChar_term hp he hc).trans (congrArg _ (rxeTerminator_of_discard hd)),
    fun he hc hd hpart => (step_of_rxChar_term hp he hc).trans (congrArg _ (rxeTerminator_of_empty hd hpart)),
    fun he hc hd hpart hq => (step_of_rxChar_term hp he hc).trans (congrArg _ (rxeTerminator_of_full hd hpart hq)),
    fun he hc hd hpart hq => (step_of_rxChar_term hp he hc).trans (congrArg _ (rxeTerminator_of_room hd hpart hq)),
    fun he hc hd => (step_of_rxChar_char hp he hc).trans (congrArg _ (rxeCharacter_of_discard hd)),
    fun he hc hd hl => (step_of_rxChar_char hp he hc).trans (congrArg _ (rxeCharacter_of_short hd hl)),
    fun he hc hd hl => (step_of_rxChar_char hp he hc).trans (congrArg _ (rxeCharacter_of_long hd hl))⟩

/-! ## A whole line (44_link.md R127, R128) -/

/-- The characters of a line whose rest is being dropped change nothing. -/
theorem run_line_of_discard {s : State} {line : Text} {rest : List Event} (k : Nat) (he : s.rxen = true)
    (hd : s.discard = true) (hterm : s.cfg.term ∉ line) (hp : s.pending = line.map Event.rxChar ++ rest) :
    Host.Core.run Sys2Proof.core (line.length + k) s = Host.Core.run Sys2Proof.core k { s with pending := rest } := by
  induction line generalizing s with
  | nil =>
    obtain rfl : s.pending = rest := hp
    rw [List.length_nil, Nat.zero_add]
  | cons c line ih =>
    obtain ⟨hc, hline⟩ := List.ne_and_not_mem_of_not_mem_cons hterm
    obtain ⟨-, -, -, -, -, hdrop, hshort, hlong⟩ := rxeStepFollowsTheReceiveRule s c _ hp
    rw [List.length_cons, Nat.add_right_comm, run_succ _ (hdrop he hc.symm hd)]
    exact ih he hd hline rfl

/-- Characters that fit PART are appended to it. -/
theorem run_line_of_short {s : State} {line : Text} {rest : List Event} (k : Nat) (he : s.rxen = true)
    (hd : s.discard = false) (hlen : s.part.length + line.length ≤ maxLine) (hterm : s.cfg.term ∉ line)
    (hp : s.pending = line.map Event.rxChar ++ rest) :
    Host.Core.run Sys2Proof.core (line.length + k) s =
      Host.Core.run Sys2Proof.core k { s with pending := rest, part := s.part ++ line } := by
  induction line generalizing s with
  | nil =>
    obtain rfl : s.pending = rest := hp
    rw [List.length_nil, Nat.zero_add, List.append_nil]
  | cons c line ih =>
    obtain ⟨hc, hline⟩ := List.ne_and_not_mem_of_not_mem_cons hterm
    obtain ⟨-, -, -, -, -, hdrop, hshort, hlong⟩ := rxeStepFollowsTheReceiveRule s c _ hp
    rw [List.length_cons] at hlen
    have hfits : s.part.length < maxLine := by omega
    rw [List.length_cons, Nat.add_right_comm, run_succ _ (hshort he hc.symm hd hfits), List.append_cons s.part c line]
    exact ih (s := { s with pending := _, part := s.part ++ [c] }) he hd (by simp; omega) hline rfl

/-- The first character that does not fit PART sets LONG, and the rest is dropped. -/
theorem run_line_of_long {s : State} {line : Text} {rest : List Event} (k : Nat) (he : s.rxen = true)
    (hd : s.discard = false) (hpart : s.part.length ≤ maxLine) (hlen : maxLine < s.part.length + line.length)
    (hterm : s.cfg.term ∉ line) (hp : s.pending = line.map Event.rxChar ++ rest) :
    Host.Core.run Sys2Proof.core (line.length + k) s =
      Host.Core.run Sys2Proof.core k { s with pending := rest, long := true, discard := true, part := [] } := by
  induction line generalizing s with
  | nil =>
    rw [List.length_nil] at hlen
    omega
  | cons c line ih =>
    obtain ⟨hc, hline⟩ := List.ne_and_not_mem_of_not_mem_cons hterm
    obtain ⟨-, -, -, -, -, hdrop, hshort, hlong⟩ := rxeStepFollowsTheReceiveRule s c _ hp
    rw [List.length_cons] at hlen
    rw [List.length_cons, Nat.add_right_comm]
    by_cases hfits : s.part.length < maxLine
    · rw [run_succ _ (hshort he hc.symm hd hfits)]
      exact ih (s := { s with pending := _, part := s.part ++ [c] }) he hd (by simp; omega) (by simp; omega) hline rfl
    · rw [run_succ _ (hlong he hc.symm hd (Nat.not_lt.1 hfits))]
      exact run_line_of_discard k he rfl hline rfl

/-- The terminator takes one more step. -/
theorem run_term {s : State} {rest : List Event} (he : s.rxen = true) (hp : s.pending = .rxChar s.cfg.term :: rest) :
    Host.Core.run Sys2Proof.core 1 s = .next (rxeTerminator { s with pending := rest }) :=
  run_succ 0 (step_of_rxChar_term hp he rfl)

section
variable {s : State} {line : Text} {rest : List Event} (he : s.rxen = true) (hd : s.discard = false)
  (hpart : s.part = []) (hterm : s.cfg.term ∉ line)
  (hp : s.pending = line.map Event.rxChar ++ .rxChar s.cfg.term :: rest)
include he hd hpart hterm hp

/-- A line of more than 512 characters is dropped, and the next one starts clean. -/
theorem run_long_line (hlong : 512 < line.length) :
    Host.Core.run Sys2Proof.core (line.length + 1) s = .next { s with pending := rest, long := true } := by
  have hrun := run_line_of_long 1 he hd (by simp [hpart]) (by rwa [hpart, List.length_nil, Nat.zero_add]) hterm hp
  refine hrun.trans ((run_term (by exact he) rfl).trans ?_)
  rw [rxeTerminator_of_discard rfl, hd, hpart]

/-- After at most 512 characters PART is the line. -/
theorem run_short_line (hlen : line.length ≤ 512) : Host.Core.run Sys2Proof.core (line.length + 1) s =
    .next (rxeTerminator { s with pending := rest, part := line }) := by
  have hrun := run_line_of_short 1 he hd (by rwa [hpart, List.length_nil, Nat.zero_add]) hterm hp
  rw [hpart, List.nil_append] at hrun
  exact hrun.trans (run_term (by exact he) rfl)

variable (hpos : 1 ≤ line.length) (hlen : line.length ≤ 512)
include hpos hlen

theorem run_line_of_full (hfull : s.rxq.length = s.cfg.rxqDepth) :
    Host.Core.run Sys2Proof.core (line.length + 1) s = .next { s with pending := rest, ovr := true } := by
  rw [run_short_line he hd hpart hterm hp hlen, hpart]
  exact congrArg _ (rxeTerminator_of_full (s := { s with pending := rest, part := line }) hd
    (List.ne_nil_of_length_pos hpos) hfull)

theorem run_line_of_room (hroom : s.rxq.length ≠ s.cfg.rxqDepth) :
    Host.Core.run Sys2Proof.core (line.length + 1) s = .next { s with pending := rest, rxq := s.rxq ++ [line] } := by
  rw [run_short_line he hd hpart hterm hp hlen, hpart]
  exact congrArg _ (rxeTerminator_of_room (s := { s with pending := rest, part := line }) hd
    (List.ne_nil_of_length_pos hpos) hroom)

end

/-- Settles O45: the line's characters, and then its terminator, which finds what the characters left. -/
theorem completeLineIsQueuedOrDroppedWhole : Obligations.CompleteLineIsQueuedOrDroppedWhole := by
  intro s line rest he hd hpart hpos hterm hp
  by_cases hlong : 512 < line.length
  · exact (run_long_line he hd hpart hterm hp hlong).trans (congrArg _ (if_pos hlong).symm)
  · have hlen := Nat.not_lt.1 hlong
    by_cases hfull : s.rxq.length = s.cfg.rxqDepth
    · exact (run_line_of_full he hd hpart hterm hp hpos hlen hfull).trans
        (congrArg _ ((if_neg hlong).trans (if_pos hfull)).symm)
    · exact (run_line_of_room he hd hpart hterm hp hpos hlen hfull).trans
        (congrArg _ ((if_neg hlong).trans (if_neg hfull)).symm)

end Sys2Proof.Machine

namespace Sys2Proof.Machine

/-! ## The parser's texts: slices of the line, bytes of hex pairs -/

theorem mem_wbufText {s : State} {a n : Nat} {c : Byte} : c ∈ s.wbufText a n ↔ ∃ i, i < n ∧ s.wbuf (a + i) = c := by
  simp [State.wbufText]

theorem slice_length {t : Text} {a b : Nat} (hb : b ≤ t.length) : (slice t a b).length = b - a := by
  simp [slice]
  omega

/-- A part of the line, read from WBUF. -/
theorem slice_line {s : State} {a n : Nat} (h : a + n ≤ s.wlen.toNat) : slice s.line a (a + n) = s.wbufText a n := by
  rw [slice, Nat.add_sub_cancel_left, line_drop_take s a n h]

theorem slice_wbufText (s : State) {a n i m : Nat} (h : i + m ≤ n) :
    slice (s.wbufText a n) i (i + m) = s.wbufText (a + i) m := by
  obtain ⟨r, rfl⟩ := Nat.exists_eq_add_of_le h
  refine slice_of_eq_append (p := s.wbufText a i) (q := s.wbufText (a + (i + m)) r) ?_ (by simp) (by simp)
  rw [wbufText_add, wbufText_add, List.append_assoc]

/-- The rest of the line from index `q`. -/
theorem line_drop {s : State} {q : Nat} (hq : q ≤ s.wlen.toNat) :
    s.line.drop q = s.wbufText q (s.wlen.toNat - q) := by
  rw [← line_drop_take s q _ (by omega), List.take_of_length_le (by simp)]

/-- An index into the line fits the 16 bits of a result register. -/
theorem toNat_index {s : State} {q : Nat} (hq : q ≤ s.wlen.toNat) : (BitVec.ofNat 16 q).toNat = q := by
  rw [BitVec.toNat_ofNat, Nat.mod_eq_of_lt (hq.trans_lt s.wlen.isLt)]

theorem ofNat_hexval_pair (a b : Byte) : BitVec.ofNat 8 (hexval [a, b]) = pairByte a b :=
  (List.cons.inj (bytesOf_cons_cons a b [])).1

theorem toNat_pairByte {a b : Byte} (ha : isHexDigit a = true) (hb : isHexDigit b = true) :
    (pairByte a b).toNat = 16 * digitVal a + digitVal b := by
  have ha := digitVal_lt a ha
  have hb := digitVal_lt b hb
  rw [pairByte, BitVec.toNat_ofNat]
  omega

/-- `n` hex digits denote a number below `16 ^ n` (00_scope.md R9). -/
theorem hexval_lt {t : Text} (h : ishex t = true) : hexval t < 16 ^ t.length := by
  induction t using List.reverseRecOn with
  | nil => exact Nat.one_pos
  | append_singleton t c ih =>
    rw [ishex_iff] at h ih
    have ht := ih fun d hd => h d (by simp [hd])
    have hc := digitVal_lt c (h c (by simp))
    have hval : hexval (t ++ [c]) = hexval t * 16 + digitVal c := by simp [hexval]
    rw [hval, List.length_append, List.length_singleton, Nat.pow_succ]
    omega

theorem dollar_not_mem_of_ishex {t : Text} (h : ishex t = true) : dollar ∉ t := fun hmem =>
  isHexDigit_ne_dollar (ishex_iff.1 h _ hmem) rfl

/-! ## FVALID (45_parse.md R140, R141) -/

@[simp] theorem exec_fvalid (s : State) : exec .fvalid s = .next { s with vres := validateLine s.line } := rfl

theorem validateLine_of_no_dollar {t : Text} (h : dollar ∉ t) : validateLine t = VRes.zero := by
  rw [validateLine, (rfind_eq_none t dollar).2 h]

theorem validateLine_of_last_dollar {t : Text} {q : Nat} (hq : t[q]? = some dollar) (hlast : dollar ∉ t.drop (q + 1)) :
    validateLine t = frameChecks q (t.drop q) := by
  rw [validateLine, (rfind_eq_some t dollar q).2 ⟨hq, hlast⟩]

/-! Each check of R142, for a text of `n` characters. -/

section
variable {f : Text} {n : Nat} (q : Nat) (hn : f.length = n)
include hn

theorem frameChecks_structOk_iff : (frameChecks q f).structOk = true ↔ 9 ≤ n := by
  simp [frameChecks, frameStructOk, hn]

theorem frameChecks_lenOk_iff : (frameChecks q f).lenOk = true ↔
    9 ≤ n ∧ ishex (slice f 1 3) = true ∧ hexval (slice f 1 3) = n + 1 := by
  simp [frameChecks, frameStructOk, frameLenOk, hn]

theorem frameChecks_crc16Ok_iff : (frameChecks q f).crc16Ok = true ↔
    9 ≤ n ∧ (n - 7) % 2 = 0 ∧ ishex (slice f 1 (n - 6)) = true ∧ ishex (slice f (n - 6) (n - 2)) = true ∧
      (crc16Hex (slice f 1 (n - 6))).toNat = hexval (slice f (n - 6) (n - 2)) := by
  have hbody : (slice f 1 (n - 6)).length = n - 7 := by
    rw [slice_length (by omega)]
    omega
  simp [frameChecks, frameStructOk, frameCrc16Ok, hn, hbody, and_assoc]

theorem frameChecks_crc8Ok_iff : (frameChecks q f).crc8Ok = true ↔
    9 ≤ n ∧ ishex (slice f (n - 2) n) = true ∧ (crc8 (slice f 0 (n - 2))).toNat = hexval (slice f (n - 2) n) := by
  simp [frameChecks, frameStructOk, frameCrc8Ok, hn]

end

/-- Settles O48: the last `$` is where `rfind` answers, and the four checks are read off the text from there. -/
theorem fvalidChecksTheLastFrame : Obligations.FvalidChecksTheLastFrame := by
  refine ⟨by decide, fun s => ⟨validateLine s.line, exec_fvalid s, fun hno => ?_, ?_⟩⟩
  · have hnone : dollar ∉ s.line := fun hmem => by
      obtain ⟨j, hj, hdollar⟩ := mem_wbufText.1 hmem
      rw [Nat.zero_add] at hdollar
      exact hno j hj hdollar
    rw [validateLine_of_no_dollar hnone]
    decide
  · intro q hq hat hlast n f
    have hn : f.length = n := by simp [f]
    have hdollar : s.line[q]? = some dollar := by simp [State.line, State.wbufText, hq, hat, dollar]
    have hrest : dollar ∉ s.line.drop (q + 1) := by
      rw [line_drop hq, mem_wbufText]
      rintro ⟨i, hi, hdollar⟩
      exact hlast _ (by omega) (by omega) hdollar
    have hvalid : validateLine s.line = frameChecks q f := by
      rw [validateLine_of_last_dollar hdollar hrest, line_drop hq.le]
      rfl
    rw [hvalid]
    exact ⟨rfl, toNat_index hq.le, frameChecks_structOk_iff q hn, frameChecks_lenOk_iff q hn, frameChecks_crc16Ok_iff q hn,
      frameChecks_crc8Ok_iff q hn, rfl⟩

/-! ## FVALID on the frames FBUILD writes (45_parse.md R143) -/

/-- A line whose only `$` is its first character is validated whole. -/
theorem validateLine_dollar_cons {t : Text} (h : dollar ∉ t) :
    validateLine (dollar :: t) = frameChecks 0 (dollar :: t) :=
  validateLine_of_last_dollar rfl h

/-- The CRC8 check compares the field with the CRC8 of all that stands before it. -/
theorem frameCrc8Ok_append_H2 {head : Text} {v : Byte} : frameCrc8Ok (head ++ H2 v) = true ↔ crc8 head = v := by
  have hhead : slice (head ++ H2 v) 0 head.length = head := slice_of_eq_append (p := []) rfl rfl (by simp)
  have hfield : slice (head ++ H2 v) head.length (head.length + 2) = H2 v :=
    slice_of_eq_append (p := head) (q := []) (by simp) rfl rfl
  simp [frameCrc8Ok, hhead, hfield, ishex_H2, hexval_H2, BitVec.toNat_inj]

/-- Behind its own CRC8 a text fails the CRC8 check with any one of its characters changed (41_crc.md R94). -/
theorem frameCrc8Ok_of_one_change {head p q : Text} {x y : Byte} (hsplit : head ++ H2 (crc8 head) = p ++ x :: q)
    (hq : 2 ≤ q.length) (hne : y ≠ x) : frameCrc8Ok (p ++ y :: q) = false := by
  obtain ⟨r, field, rfl, hfield⟩ : ∃ r field, q = r ++ field ∧ field.length = 2 :=
    ⟨q.take (q.length - 2), q.drop (q.length - 2), (List.take_append_drop _ _).symm, by simp; omega⟩
  rw [← List.cons_append, ← List.append_assoc] at hsplit ⊢
  obtain ⟨rfl, rfl⟩ := List.append_inj' hsplit (by rw [hfield, H2_length])
  exact Bool.eq_false_iff.2 (mt frameCrc8Ok_append_H2.1 (crc8_ne_of_one_change hne p r))

section
variable {data : Text} (hhex : ishex data = true)

theorem frameLenOk_frameOf (hlen : data.length ≤ 245) : frameLenOk (frameOf data) = true := by
  simp [frameLenOk, slice_frameOf_length_field, ishex_H2, hexval_length_field hlen]

include hhex

theorem frameCrc16Ok_frameOf (heven : data.length % 2 = 0) : frameCrc16Ok (frameOf data) = true := by
  have hbody : ishex (frameBody data) = true := by simp [frameBody, ishex_append, ishex_H2, hhex]
  simp [frameCrc16Ok, slice_frameOf_body, slice_frameOf_crc16_field, ishex_H4, hexval_H4, hbody, heven]

/-- A frame of the wire layout passes every check. -/
theorem validateLine_frameOf (heven : data.length % 2 = 0) (hlen : data.length ≤ 245) :
    validateLine (frameOf data) = ⟨true, true, true, true, true, true, 0⟩ := by
  have hstruct : frameStructOk (frameOf data) = true := by simp [frameStructOk]
  have hcrc8 : frameCrc8Ok (frameOf data) = true := frameCrc8Ok_append_H2.2 rfl
  have hchecks : validateLine (frameOf data) = frameChecks 0 (frameOf data) := by
    rw [frameOf_eq_cons]
    exact validateLine_dollar_cons (dollar_not_mem_of_ishex (ishex_frameDigits hhex))
  simp [hchecks, frameChecks, hstruct, frameLenOk_frameOf hlen, frameCrc16Ok_frameOf hhex heven, hcrc8]

/-- With a character between its `$` and its CRC8 field changed, a frame is not valid: no new `$` moves the check to an inner
frame, and the CRC8 check fails. -/
theorem validateLine_changed_frameOf {p q : Text} {x y : Byte} (hframe : frameOf data = p ++ x :: q) (hp : 1 ≤ p.length)
    (hq : 2 ≤ q.length) (hne : y ≠ x) (hy : y ≠ dollar) : (validateLine (p ++ y :: q)).valid = false := by
  have hcrc8 := frameCrc8Ok_of_one_change hframe hq hne
  obtain _ | ⟨d, p⟩ := p
  · simp at hp
  obtain ⟨rfl, hdigits⟩ : dollar = d ∧ frameDigits data = p ++ x :: q :=
    List.cons.inj ((frameOf_eq_cons data).symm.trans hframe)
  have hno : dollar ∉ p ++ y :: q := by
    have hold := dollar_not_mem_of_ishex (ishex_frameDigits hhex)
    simp only [hdigits, List.mem_append, List.mem_cons, not_or] at hold ⊢
    obtain ⟨hp, -, hq⟩ := hold
    exact ⟨hp, hy.symm, hq⟩
  rw [List.cons_append] at hcrc8 ⊢
  simp [validateLine_dollar_cons hno, frameChecks, hcrc8]

end

/-- The function code, the address and the arguments together are hex. -/
theorem ishex_frameData {args : Text} (code low high : Byte) (hhex : ishex args = true) :
    ishex (frameData code low high args) = true := by
  simp [frameData, ishex_append, ishex_H2, hhex]

/-- Settles O38: the frame passes the four checks, and the changed one fails the CRC8 check. -/
theorem mutatedFrameIsNotValid : Obligations.MutatedFrameIsNotValid := by
  intro code low high args p q x y hhex heven hlen hframe hp hq hne hy
  have hdata := ishex_frameData code low high hhex
  refine ⟨?_, validateLine_changed_frameOf hdata hframe (by omega) (by omega) hne hy⟩
  rw [← hframe, validateLine_frameOf hdata (by rw [frameData_length]; omega) (by rw [frameData_length]; omega)]

/-- Settles O37: the copied line is the assembled frame. -/
theorem builtFrameValidates : Obligations.BuiltFrameValidates := by
  intro s t u h hexec hwlen hcopy
  obtain rfl : s.built = t := by simpa [exec_fbuild_of_accepts h] using hexec
  have hlen : s.built.txlen.toNat = s.builtFrame.length := by rw [built_txlen h, builtFrame_length]
  have hline : u.line = frameOf s.builtData := by
    rw [← builtFrame_eq_frameOf, ← built_txbufText, ← hlen, State.line, hwlen]
    exact List.map_congr_left fun i hi => by simpa using hcopy i (List.mem_range.1 hi)
  have hhex := ishex_builtData (ishex_window_of_accepts h)
  obtain ⟨-, -, -, heven, hblen, -⟩ := h
  refine ⟨_, exec_fvalid u, ?_⟩
  rw [hline, validateLine_frameOf hhex (by rw [builtData_length]; omega) (by rw [builtData_length]; omega)]
  exact show VRes.word ⟨true, true, true, true, true, true, 0⟩ = 0x0000003F by decide

end Sys2Proof.Machine

namespace Sys2Proof.Machine

/-! ## A signal in the line (45_parse.md R145, R147) -/

theorem signalAt_iff_standsAt {s : State} {sig : Text} (hsig : sig ≠ []) {p : Nat} :
    signalAt s sig p ↔ standsAt sig s.line p := by
  have hpos := List.length_pos_iff.2 hsig
  rw [standsAt, List.prefix_iff_getElem, signalAt]
  constructor
  · rintro ⟨hin, hat⟩
    exact ⟨by simp; omega, fun j hj => by simpa [State.line] using (hat j hj).symm⟩
  · rintro ⟨hle, hat⟩
    rw [List.length_drop, line_length] at hle
    exact ⟨by omega, fun j hj => by simpa [State.line] using (hat j hj).symm⟩

theorem find_line_eq_none {s : State} {sig : Text} (hsig : sig ≠ []) (hno : ∀ p, ¬ signalAt s sig p) :
    find s.line sig = none :=
  (find_eq_none _ _ hsig).2 fun p => mt (signalAt_iff_standsAt hsig).2 (hno p)

/-- The first occurrence wins (decision D24). -/
theorem find_line_eq_some {s : State} {sig : Text} (hsig : sig ≠ []) {p : Nat} (hat : signalAt s sig p)
    (hfirst : ∀ p', p' < p → ¬ signalAt s sig p') : find s.line sig = some p :=
  (find_eq_some _ _ _ hsig).2 ⟨(signalAt_iff_standsAt hsig).1 hat, fun p' hp' =>
    mt (signalAt_iff_standsAt hsig).2 (hfirst p' hp')⟩

/-- LAST_OFF holds the index of any hit. -/
theorem toNat_hit {s : State} {sig : Text} {p : Nat} (hat : signalAt s sig p) : (BitVec.ofNat 16 p).toNat = p := by
  obtain ⟨hin, -⟩ := hat
  exact toNat_index (s := s) (by omega)

/-! ## MACK (45_parse.md R145, R146) -/

theorem exec_mack_of_miss {s : State} (h : find s.line (ackSignal s.func) = none) :
    exec .mack s = .next { s with mres := { s.mres with lastHit := false } } := by
  simp only [exec, execMack, h, attempt_ok]

theorem exec_mack_of_hit {s : State} {p : Nat} (h : find s.line (ackSignal s.func) = some p) :
    exec .mack s = .next { s with
      mres := { s.mres with ackSeen := true, lastHit := true, lastOff := BitVec.ofNat 16 p } } := by
  simp only [exec, execMack, h, attempt_ok]

/-- Settles O49: `find` answers the first index at which the ack signal stands. -/
theorem mackFindsTheFirstAckSignal : Obligations.MackFindsTheFirstAckSignal := by
  refine ⟨by decide, fun s => ⟨fun hno => ?_, fun p hat hfirst => ?_⟩⟩
  · exact exec_mack_of_miss (find_line_eq_none (List.cons_ne_nil _ _) hno)
  · exact ⟨_, exec_mack_of_hit (find_line_eq_some (List.cons_ne_nil _ _) hat hfirst), toNat_hit hat, rfl⟩

/-! ## The state text (45_parse.md R147, 10_state.md R38, R39) -/

theorem stateWellFormed_iff {s : State} {a : Nat} : stateWellFormed s.line a = true ↔
    a + 12 ≤ s.wlen.toNat ∧ ∀ j, j < 12 → isHexDigit (s.wbuf (a + j)) = true := by
  rw [stateWellFormed, Bool.and_eq_true, decide_eq_true_eq, line_length, stateChars]
  refine and_congr_right fun hin => ?_
  rw [slice_line hin, ishex_wbufText_iff]

/-- State byte `k` as a number: its first character is its high digit. -/
theorem toNat_stateByte {s : State} {a k : Nat} (hin : a + 12 ≤ s.wlen.toNat) (hk : k < 6)
    (hhex : ∀ j, j < 12 → isHexDigit (s.wbuf (a + j)) = true) :
    (stateByte (slice s.line a (a + stateChars)) k).toNat =
      16 * digitVal (s.wbuf (a + 2 * k)) + digitVal (s.wbuf (a + 2 * k + 1)) := by
  have hpair : s.wbufText (a + 2 * k) 2 = [s.wbuf (a + 2 * k), s.wbuf (a + 2 * k + 1)] := rfl
  rw [stateByte, stateChars, slice_line hin, slice_wbufText s (by omega), hpair, ofNat_hexval_pair,
    toNat_pairByte (hhex _ (by omega)) (Nat.add_assoc a _ 1 ▸ hhex (2 * k + 1) (by omega))]

theorem extractLsb'_append_byte_succ {m : Nat} (x : BitVec m) (y : Byte) (k : Nat) :
    (x ++ y).extractLsb' (8 * (k + 1)) 8 = x.extractLsb' (8 * k) 8 := by
  rw [BitVec.extractLsb'_append_eq_of_le (by omega), show 8 * (k + 1) - 8 = 8 * k by omega]

/-- Byte `k` of a word of two bytes. -/
theorem extractLsb'_two_bytes (b : Nat → Byte) {k : Nat} (hk : k < 2) :
    (b 1 ++ b 0 : BitVec 16).extractLsb' (8 * k) 8 = b k := by
  match k, hk with
  | 0, _ => exact BitVec.extractLsb'_append_eq_right
  | 1, _ => exact BitVec.extractLsb'_append_eq_left

/-- Byte `k` of a word of four bytes. -/
theorem extractLsb'_four_bytes (b : Nat → Byte) {k : Nat} (hk : k < 4) :
    (b 3 ++ b 2 ++ b 1 ++ b 0 : BitVec 32).extractLsb' (8 * k) 8 = b k := by
  match k, hk with
  | 0, _ => exact BitVec.extractLsb'_append_eq_right
  | k + 1, hk =>
    refine (extractLsb'_append_byte_succ (b 3 ++ b 2 ++ b 1) (b 0) k).trans ?_
    match k, hk with
    | 0, _ => exact BitVec.extractLsb'_append_eq_right
    | k + 1, hk =>
      exact (extractLsb'_append_byte_succ (b 3 ++ b 2) (b 1) k).trans
        (extractLsb'_two_bytes (fun k => b (k + 2)) (by omega))

/-! ## MANS (45_parse.md R146, R147) -/

section
variable {s : State} {v : Byte}

theorem exec_mans_of_wide (hwide : 2 ^ 16 ≤ s.ain.toNat) : exec (.mans v) s = .next (raiseErr .badArg s) := by
  rw [exec, execMans, if_pos (mt addrTop_eq_zero_iff.1 (by omega)), attempt_error]

variable (hnarrow : s.ain.toNat < 2 ^ 16)
include hnarrow

theorem exec_mans_of_miss (h : find s.line (answerSignal (variantOf v) s.wireAddr) = none) :
    exec (.mans v) s = .next { s with mres := { s.mres with lastHit := false } } := by
  simp only [exec, execMans, if_neg (not_not_intro (addrTop_eq_zero_iff.2 hnarrow)), h, attempt_ok]

theorem exec_mans_of_hit {p : Nat} (h : find s.line (answerSignal (variantOf v) s.wireAddr) = some p) :
    exec (.mans v) s = .next (answerHit p s) := by
  simp only [exec, execMans, if_neg (not_not_intro (addrTop_eq_zero_iff.2 hnarrow)), h, attempt_ok]

end

/-- What every answer-signal hit does to MRES, whether or not a state follows. -/
theorem answerHit_frame (p : Nat) (s : State) : answerHit p s = { s with
    mres := { s.mres with
      ansSeen := true, lastHit := true, lastOff := BitVec.ofNat 16 p, stateOk := stateWellFormed s.line (p + 7) }
    stateA := (answerHit p s).stateA, stateB := (answerHit p s).stateB } := by
  cases h : stateWellFormed s.line (p + 7) <;> simp [answerHit, h]

theorem answerHit_keeps_state {p : Nat} {s : State} (h : stateWellFormed s.line (p + 7) = false) :
    (answerHit p s).stateA = s.stateA ∧ (answerHit p s).stateB = s.stateB := by
  simp [answerHit, h]

/-- STATE_A takes the first four bytes of the state text, STATE_B the other two, the first in the low bits. -/
theorem answerHit_state_bytes {p : Nat} {s : State} (h : stateWellFormed s.line (p + 7) = true) :
    (∀ k, k < 4 → (answerHit p s).stateA.extractLsb' (8 * k) 8 =
      stateByte (slice s.line (p + 7) (p + 7 + stateChars)) k) ∧
    ∀ k, k < 2 → (answerHit p s).stateB.extractLsb' (8 * k) 8 =
      stateByte (slice s.line (p + 7) (p + 7 + stateChars)) (4 + k) := by
  simp only [answerHit, h, if_true]
  exact ⟨fun k hk => extractLsb'_four_bytes _ hk, fun k hk => extractLsb'_two_bytes (fun k => stateByte _ (4 + k)) hk⟩

/-- Settles O50: the statement's signal is `answerSignal`, and a hit does what `answerHit` does. -/
theorem mansExtractsTheGroupState : Obligations.MansExtractsTheGroupState := by
  refine ⟨fun v => encode_eq_opcode_add_imm8 (.mans v), fun s v hv => ?_⟩
  intro sig
  have hsig : sig = answerSignal (variantOf v) s.wireAddr := by
    obtain rfl | rfl := hv <;> rfl
  have hne : answerSignal (variantOf v) s.wireAddr ≠ [] := List.cons_ne_nil _ _
  rw [hsig]
  refine ⟨exec_mans_of_wide, fun hnarrow hno => exec_mans_of_miss hnarrow (find_line_eq_none hne hno), ?_⟩
  intro p hnarrow hat hfirst good stateByteAt
  have hgood : stateWellFormed s.line (p + 7) = true ↔ good := stateWellFormed_iff
  have hframe := answerHit_frame p s
  refine ⟨answerHit p s, exec_mans_of_hit hnarrow (find_line_eq_some hne hat hfirst), ?_, ?_, ?_, fun h => ?_, fun h => ?_⟩
  · rw [hframe, toNat_hit hat]
  · rw [hframe, hgood]
  · rw [hframe]
  · obtain ⟨hA, hB⟩ := answerHit_state_bytes (hgood.2 h)
    obtain ⟨hin, hhex⟩ := h
    exact ⟨fun k hk => by rw [hA k hk, toNat_stateByte hin (by omega) hhex],
      fun k hk => by rw [hB k hk, toNat_stateByte hin (by omega) hhex]⟩
  · exact answerHit_keeps_state (Bool.eq_false_iff.2 (mt hgood.1 h))

/-! ## CHUNK, one lemma per branch of R150 -/

theorem all_isF_wbufText_iff {s : State} {a n : Nat} :
    (s.wbufText a n).all isF = true ↔ ∀ j, j < n → s.wbuf (a + j) = 0x46 ∨ s.wbuf (a + j) = 0x66 := by
  simp [State.wbufText, isF]

section
variable {s : State} {n : Byte}

theorem exec_chunk_of_past (hpast : s.wlen.toNat < s.cptr.toNat) : exec (.chunk n) s = .next (raiseErr .range s) := by
  simp only [exec, execChunk, if_pos hpast, attempt_error]

theorem exec_chunk_of_end (hend : s.cptr = s.wlen) :
    exec (.chunk n) s = .next { s with cres := ⟨.ended, s.cptr⟩ } := by
  simp only [exec, execChunk, hend, gt_iff_lt, lt_irrefl, if_false, if_true, attempt_ok]

theorem exec_chunk_of_short (hbefore : s.cptr.toNat < s.wlen.toNat) (hshort : s.wlen.toNat < s.cptr.toNat + n.toNat) :
    exec (.chunk n) s = .next { s with cres := ⟨.short, s.cptr⟩ } := by
  rw [exec, execChunk, if_neg (by omega), if_neg (by omega), if_pos (by rw [countOf]; omega), attempt_ok]

variable (hpos : 1 ≤ n.toNat) (hin : s.cptr.toNat + n.toNat ≤ s.wlen.toNat)
include hpos hin

theorem exec_chunk_of_terminator (hF : (s.wbufText s.cptr.toNat n.toNat).all isF = true) :
    exec (.chunk n) s = .next { s with cres := ⟨.terminator, s.cptr⟩ } := by
  rw [exec, execChunk, if_neg (by omega), if_neg (by omega), if_neg (by rw [countOf]; omega), countOf, if_pos hF,
    attempt_ok]

theorem exec_chunk_of_chunk (hF : (s.wbufText s.cptr.toNat n.toNat).all isF = false) :
    exec (.chunk n) s = .next { s with
      cres := ⟨.chunk, s.cptr⟩, cptr := BitVec.ofNat 16 (s.cptr.toNat + n.toNat) } := by
  rw [exec, execChunk, if_neg (by omega), if_neg (by omega), if_neg (by rw [countOf]; omega), countOf,
    if_neg (by simp [hF]), attempt_ok]

end

/-- Settles O51: the five branches. -/
theorem chunkReportsItsKind : Obligations.ChunkReportsItsKind := by
  refine ⟨fun n => encode_eq_opcode_add_imm8 (.chunk n), fun s n hpos =>
    ⟨exec_chunk_of_past, exec_chunk_of_end, exec_chunk_of_short, fun hin hF => ?_, fun hin hother => ?_⟩⟩
  · exact exec_chunk_of_terminator hpos hin (all_isF_wbufText_iff.2 hF)
  · obtain ⟨j, hj, hne⟩ := hother
    have hF : (s.wbufText s.cptr.toNat n.toNat).all isF = false :=
      Bool.eq_false_iff.2 fun h => not_or.2 hne (all_isF_wbufText_iff.1 h j hj)
    exact ⟨_, exec_chunk_of_chunk hpos hin hF, toNat_index hin, rfl⟩

/-- From CPTR inside the line CHUNK either stops, whatever CRES held before, or moves CPTR on by its count. -/
theorem exec_chunk_stops_or_advances {s : State} {n : Byte} (hpos : 1 ≤ n.toNat) (hle : s.cptr.toNat ≤ s.wlen.toNat) :
    (∃ k, k ≠ .chunk ∧ ∀ c, exec (.chunk n) { s with cres := c } = .next { s with cres := ⟨k, s.cptr⟩ }) ∨
      (s.cptr.toNat + n.toNat ≤ s.wlen.toNat ∧ exec (.chunk n) s = .next { s with
        cres := ⟨.chunk, s.cptr⟩, cptr := BitVec.ofNat 16 (s.cptr.toNat + n.toNat) }) := by
  by_cases hend : s.cptr = s.wlen
  · exact .inl ⟨.ended, by decide, fun c => exec_chunk_of_end (s := { s with cres := c }) hend⟩
  have hbefore : s.cptr.toNat < s.wlen.toNat := lt_of_le_of_ne hle (mt BitVec.eq_of_toNat_eq hend)
  by_cases hshort : s.wlen.toNat < s.cptr.toNat + n.toNat
  · exact .inl ⟨.short, by decide, fun c => exec_chunk_of_short (s := { s with cres := c }) hbefore hshort⟩
  have hin := Nat.not_lt.1 hshort
  cases hF : (s.wbufText s.cptr.toNat n.toNat).all isF with
  | true =>
    exact .inl ⟨.terminator, by decide, fun c => exec_chunk_of_terminator (s := { s with cres := c }) hpos hin hF⟩
  | false => exact .inr ⟨hin, exec_chunk_of_chunk hpos hin hF⟩

/-- Settles O52: a CHUNK that stops changes CRES alone, which the repeated CHUNK does not read. -/
theorem chunkWalkAdvancesOrStops : Obligations.ChunkWalkAdvancesOrStops := by
  intro s t n hpos hexec hle
  obtain ⟨k, hk, hstop⟩ | ⟨hin, hadvance⟩ := exec_chunk_stops_or_advances hpos hle
  · cases hexec.symm.trans (hstop s.cres)
    exact ⟨fun h => absurd h hk, fun _ => ⟨rfl, hstop _⟩⟩
  · cases hexec.symm.trans hadvance
    refine ⟨fun _ => ?_, fun h => absurd rfl h⟩
    simp only [toNat_index hin]
    omega

/-! ## HEXGET, one lemma per branch of R153 -/

section
variable {s : State} {n : Byte}

theorem exec_hexget_of_outside (hw : s.wlen.toNat < s.boff.toNat + n.toNat) :
    exec (.hexget n) s = .next (raiseErr .range s) := by
  rw [exec, execHexget, countOf, if_pos (not_windowIn_iff.2 hw), attempt_error]

variable (hw : s.boff.toNat + n.toNat ≤ s.wlen.toNat)
include hw

theorem exec_hexget_of_not_hex (hhex : ishex (s.windowText n.toNat) = false) :
    exec (.hexget n) s = .next (raiseErr .notHex s) := by
  rw [exec, execHexget, countOf, if_neg (mt not_windowIn_iff.1 (by omega)), if_pos (by simp [hhex]), attempt_error]

theorem exec_hexget_of_hex (hhex : ishex (s.windowText n.toNat) = true) :
    exec (.hexget n) s = .next { s with hval := BitVec.ofNat 32 (hexval (s.windowText n.toNat)) } := by
  rw [exec, execHexget, countOf, if_neg (mt not_windowIn_iff.1 (by omega)), if_neg (by simp [hhex]), attempt_ok]

end

theorem hexval_wbufText (s : State) (a n : Nat) :
    hexval (s.wbufText a n) = (List.range n).foldl (fun v j => 16 * v + digitVal (s.wbuf (a + j))) 0 := by
  simp [hexval, State.wbufText, List.foldl_map, Nat.mul_comm]

/-- At most eight digits fit HVAL. -/
theorem toNat_hval {s : State} {n : Nat} (hn : n ≤ 8) (hhex : ishex (s.windowText n) = true) :
    (BitVec.ofNat 32 (hexval (s.windowText n))).toNat = hexval (s.windowText n) := by
  have hval : hexval (s.windowText n) < 2 ^ 32 :=
    calc hexval (s.windowText n)
      _ < 16 ^ n := by simpa [State.windowText] using hexval_lt hhex
      _ ≤ 16 ^ 8 := Nat.pow_le_pow_right (by decide) hn
      _ = 2 ^ 32 := rfl
  rw [BitVec.toNat_ofNat, Nat.mod_eq_of_lt hval]

/-- Settles O53: the three branches. -/
theorem hexgetParsesTheWindow : Obligations.HexgetParsesTheWindow := by
  refine ⟨fun n => encode_eq_opcode_add_imm8 (.hexget n), fun s n _ hn =>
    ⟨exec_hexget_of_outside, fun hw hbad => ?_, fun hw hdigits => ?_⟩⟩
  · obtain ⟨j, hj, hd⟩ := hbad
    exact exec_hexget_of_not_hex hw
      (Bool.eq_false_iff.2 fun h => Bool.false_ne_true (hd.symm.trans (ishex_wbufText_iff.1 h j hj)))
  · have hhex : ishex (s.windowText n.toNat) = true := ishex_wbufText_iff.2 hdigits
    refine ⟨_, exec_hexget_of_hex hw hhex, ?_, rfl⟩
    rw [← hexval_wbufText]
    exact toNat_hval hn hhex

/-! ## Frames of the parser commands -/

/-- Settles O57: read off the list of effects. -/
theorem parserCommandFrames : Obligations.ParserCommandFrames := by
  intro i s t h
  have ht := exec_effect h
  refine ⟨?_, ?_, ?_, ?_, ?_, fun hi off => ?_⟩
  · rintro rfl
    obtain rfl := ht
    rfl
  · rintro rfl
    obtain rfl | ⟨p, rfl⟩ := ht <;> exact ⟨rfl, rfl, rfl⟩
  · rintro ⟨v, rfl⟩
    obtain rfl | rfl | ⟨p, a, b, rfl⟩ | ⟨p, rfl⟩ := ht <;> exact ⟨rfl, rfl⟩
  · rintro ⟨n, rfl⟩
    obtain rfl | ⟨k, -, rfl⟩ | ⟨p, rfl⟩ := ht <;> rfl
  · rintro ⟨n, rfl⟩
    obtain ⟨e, -, rfl⟩ | ⟨v, rfl⟩ := ht <;> rfl
  · have hf := effect_frame ht
    have hmem : t.mem = s.mem := hf.mem (by rintro rfl; simp at hi) (by rintro rfl; simp at hi)
    rw [State.cell, State.cell, hmem, hf.resets]

end Sys2Proof.Machine

namespace Sys2Proof.Machine

/-! ## No step stops (60_exceptions.md R165, R168, R172) -/

/-- Settles O7: an agent's step is finished, or it runs a command word, which is illegal or a command. -/
theorem everyStepAnswersNext : Obligations.EveryStepAnswersNext := by
  intro s
  cases ha : nextAction s with
  | done t => exact ⟨t, by simp only [step, ha]⟩
  | run w u =>
    cases hw : decode w with
    | ok i =>
      obtain ⟨t, ht, -⟩ := exec_keeps_resp i u
      exact ⟨t, by simp only [step, ha, hw, ht]⟩
    | error e => exact ⟨illegalWord u, by simp only [step, ha, hw]⟩

/-! ## What a command does to ERRCODE (60_exceptions.md R160, R165, R166) -/

/-- The three ways a command can end, as ERRCODE shows them. -/
inductive CommandEnd (i : Instr) (s t : State) : Prop
  /-- The command raises one of its own codes, and nothing else changes. -/
  | raised (e : ErrCode) (he : raisable i e = true) (ht : t = raiseErr e s)
  /-- The command does its work, which leaves ERRCODE alone. -/
  | worked (hcode : t.errcode = s.errcode)
  /-- SRESET clears ERRCODE along with the rest (40_control.md R82). -/
  | reset (hi : i = .sreset) (ht : t = softReset s)

/-- A command's effects, sorted by how they end the command. -/
theorem effect_end {i : Instr} {s t : State} (ht : Effect i s t) : CommandEnd i s t := by
  cases i with
  | sreset => exact .reset rfl ht
  | nop | c16init | c16byte b | c8init | c8byte x | aenc | fvalid | rxflush =>
    simp only [Effect] at ht
    subst ht
    exact .worked rfl
  | akey k => obtain ⟨v, rfl⟩ | rfl := ht <;> exact .worked rfl
  | mack => obtain rfl | ⟨p, rfl⟩ := ht <;> exact .worked rfl
  | c16hex =>
    obtain ⟨e, he, rfl⟩ | ⟨-, -, -, rfl⟩ := ht
    · exact .raised e (by rcases he with rfl | rfl | rfl <;> rfl) rfl
    · exact .worked rfl
  | c8text =>
    obtain rfl | ⟨-, rfl⟩ := ht
    · exact .raised .range rfl rfl
    · exact .worked rfl
  | aswap =>
    obtain rfl | ⟨-, rfl⟩ := ht
    · exact .raised .badArg rfl rfl
    · exact .worked rfl
  | fbuild =>
    obtain ⟨e, he, rfl⟩ | ⟨-, -, -, -, -, -, rfl⟩ := ht
    · exact .raised e (by rcases he with rfl | rfl | rfl | rfl <;> rfl) rfl
    · exact .worked rfl
  | mans v =>
    obtain rfl | rfl | ⟨p, a, b, rfl⟩ | ⟨p, rfl⟩ := ht
    · exact .raised .badArg rfl rfl
    all_goals exact .worked rfl
  | chunk n =>
    obtain rfl | ⟨k, -, rfl⟩ | ⟨p, rfl⟩ := ht
    · exact .raised .range rfl rfl
    all_goals exact .worked rfl
  | hexget n =>
    obtain ⟨e, he, rfl⟩ | ⟨v, rfl⟩ := ht
    · exact .raised e (by rcases he with rfl | rfl <;> rfl) rfl
    · exact .worked rfl
  | txstart =>
    obtain ⟨-, rfl⟩ | ⟨-, rfl⟩ := ht
    · exact .raised .busy rfl rfl
    · exact .worked rfl
  | rxpop =>
    obtain ⟨-, rfl⟩ | ⟨line, rest, -, rfl⟩ := ht
    · exact .raised .empty rfl rfl
    · exact .worked rfl

/-- Settles O54: a command other than SRESET either raises, which writes ERRCODE alone, or leaves ERRCODE as it was. -/
theorem errorsChangeErrcodeAlone : Obligations.ErrorsChangeErrcodeAlone := by
  intro i s t hi h
  cases effect_end (exec_effect h) with
  | raised e he ht =>
    have halone : t = { s with errcode := t.errcode } := by rw [ht]; rfl
    exact ⟨fun _ => halone, fun hne => absurd halone hne⟩
  | worked hcode => exact ⟨fun hne => absurd hcode hne, fun _ => hcode⟩
  | reset hsreset ht => exact absurd hsreset hi

/-- Settles O55: a changed ERRCODE was raised by the command, or cleared by SRESET. -/
theorem commandsRaiseOnlyTheirCodes : Obligations.CommandsRaiseOnlyTheirCodes := by
  intro i s t h hne
  cases effect_end (exec_effect h) with
  | raised e he ht =>
    rw [ht]
    exact .inl he
  | worked hcode => exact absurd hcode hne
  | reset hi ht =>
    rw [ht]
    exact .inr ⟨hi, rfl⟩

end Sys2Proof.Machine

namespace Sys2Proof.Machine

/-! ## Signals in an echoed frame (70_reset_and_hazards.md R192) -/

/-- A search answers exactly when the text stands somewhere. -/
theorem exists_find_eq_some_iff {s t : Text} (ht : t ≠ []) : (∃ p, find s t = some p) ↔ ∃ i, standsAt t s i := by
  rw [← Option.ne_none_iff_exists', Ne, find_eq_none s t ht, not_forall_not]

/-- Two hex digits name one byte. -/
theorem H2_injective : Function.Injective H2 := fun v w h =>
  BitVec.eq_of_toNat_eq (by rw [← hexval_H2 v, ← hexval_H2 w, h])

/-- Texts that begin with a byte's hex are compared byte first. -/
theorem H2_append_prefix_iff {v w : Byte} {s t : Text} : H2 v ++ s <+: H2 w ++ t ↔ v = w ∧ s <+: t := by
  constructor
  · rintro ⟨r, hr⟩
    rw [List.append_assoc] at hr
    obtain ⟨hbyte, rfl⟩ := List.append_inj hr rfl
    exact ⟨H2_injective hbyte, r, rfl⟩
  · rintro ⟨rfl, h⟩
    exact (List.prefix_append_right_inj _).2 h

/-- In a text whose only `$` is its first character, a text that begins with `$` stands at index 0 or nowhere. -/
theorem standsAt_dollar_cons_iff {sig t : Text} (ht : dollar ∉ t) {i : Nat} :
    standsAt (dollar :: sig) (dollar :: t) i ↔ i = 0 ∧ sig <+: t := by
  cases i with
  | zero => simp [standsAt]
  | succ i =>
    have hno : ¬ standsAt (dollar :: sig) t i := fun h => ht (List.mem_of_mem_drop (h.subset List.mem_cons_self))
    simp [standsAt_succ, hno]

/-- A signal of `$`, a byte and more text stands in a frame exactly when the byte is the frame's length field and the fields
behind it begin with the text. -/
theorem exists_find_frameOf_iff {data : Text} (hhex : ishex data = true) (hlen : data.length ≤ 245) {v : Byte} {sig : Text} :
    (∃ p, find (frameOf data) (dollar :: (H2 v ++ sig)) = some p) ↔
      v.toNat = data.length + 10 ∧
        sig <+: data ++ (H4 (crc16Hex (frameBody data)) ++ H2 (crc8 (frameHead data))) := by
  have hfield : v = BitVec.ofNat 8 (data.length + lenBias) ↔ v.toNat = data.length + 10 := by
    rw [← hexval_length_field hlen, hexval_H2, BitVec.toNat_inj]
  rw [exists_find_eq_some_iff (List.cons_ne_nil _ _), frameOf_eq_cons]
  simp only [standsAt_dollar_cons_iff (dollar_not_mem_of_ishex (ishex_frameDigits hhex)), exists_eq_left]
  rw [frameDigits, H2_append_prefix_iff, hfield]

/-- The data of a frame begin with the function code and the address low byte. -/
theorem two_bytes_prefix_frameData_iff {code low high lo hi : Byte} {args t : Text} :
    H2 lo ++ H2 hi <+: frameData code low high args ++ t ↔ code = lo ∧ low = hi := by
  rw [← List.append_nil (H2 hi)]
  simp only [frameData, List.append_assoc, H2_append_prefix_iff, List.nil_prefix, and_true, eq_comm]

/-- The ack signal is `$`, the byte 5 and the function code in hex. -/
theorem ackSignal_eq (c : Byte) : ackSignal c = dollar :: (H2 0x05 ++ H2 c) := rfl

/-- The answer signal is `$`, the byte of its variant in hex and the address. -/
theorem answerSignal_eq (variant : Bool) (addr : Text) :
    answerSignal variant addr = dollar :: (H2 (if variant then 0x18 else 0x1C) ++ addr) := by
  cases variant <;> rfl

/-- Settles O39: the one `$` of the frame is its first character, so the byte after a signal's `$` meets the length field, which
is at least 16, and the answer signal's address bytes meet the function code and the address low byte. -/
theorem echoedFrameMatchesOnlyAsStated : Obligations.EchoedFrameMatchesOnlyAsStated := by
  intro code low high args hhex _ hlen
  have hdata := ishex_frameData code low high hhex
  have hdlen := frameData_length code low high args
  refine ⟨fun c => ?_, fun variant lo hi => ?_⟩
  · rw [Option.eq_none_iff_forall_ne_some, ← not_exists, ackSignal_eq, exists_find_frameOf_iff hdata (by omega)]
    rintro ⟨hfield, -⟩
    have hfive : (0x05 : Byte).toNat = 5 := rfl
    omega
  · rw [answerSignal_eq, exists_find_frameOf_iff hdata (by omega), two_bytes_prefix_frameData_iff, hdlen]
    refine and_congr_left' ?_
    cases variant <;> simp

end Sys2Proof.Machine
